-- ==== Sys2Proof/Word.lean ====
section
/-! DEFINITION. The widths the spec gives: a byte, the 64-bit request and response word, the 16-bit index operand. -/

namespace Sys2Proof

/-- A byte: a buffer byte, an operand field, a bus byte or a window register (R15, R72). -/
abbrev Byte := BitVec 8

/-- A request word or a response word, presented whole on the request port (R55, R70). -/
abbrev Word := BitVec 64

/-- The IDX operand of format I (R72). -/
abbrev Index := BitVec 16

end Sys2Proof
end

