-- ==== Sys2Proof/Config.lean ====
section
/-! DEFINITION. The implementation parameters of 00_scope.md section 3 (R6 to R13), and the configuration the model
resets with. -/

namespace Sys2Proof

/-- The level of a one-bit line, 0 or 1 (R26, R28). -/
inductive Level where
  | low
  | high
deriving DecidableEq, Repr, Inhabited

/-- The transports the document lists (R13). Only `parallel` is specified: no block is built with another (R232). -/
inductive Transport where
  | parallel
  | serialVariantA
  | serialVariantB
deriving DecidableEq, Repr

/-- The parameters fixed for the lifetime of one block (R6 to R13, R32). -/
structure Config where
  /-- WIDTH, in pixels (R6). -/
  width : Nat
  /-- HEIGHT, in pixels (R7). -/
  height : Nat
  /-- VARIANT, the product-variant identifier (R8). -/
  variant : Byte
  /-- VARIANT_TABLE (R9): a finite map as a list of entries; the first entry of a key is the key's. -/
  variantTable : List (Byte × List Byte)
  /-- CMD_SET_COLUMN (R10). -/
  cmdSetColumn : Byte
  /-- CMD_SET_ROW (R10). -/
  cmdSetRow : Byte
  /-- CMD_POWER_ON (R10). -/
  cmdPowerOn : Byte
  /-- CMD_NORMAL_DISPLAY (R10). -/
  cmdNormalDisplay : Byte
  /-- CMD_CONTRAST (R10). -/
  cmdContrast : Byte
  /-- SETTLE_DELAY (R11), in a unit the spec does not give. The model keeps no time, so no rule reads it. -/
  settleDelay : Nat
  /-- DC_IDLE (R12). -/
  dcIdle : Level
  /-- LATCH_IDLE (R12). -/
  latchIdle : Level
  /-- D_IDLE (R12). -/
  dIdle : Byte
  /-- TRANSPORT (R13). -/
  transport : Transport
deriving DecidableEq, Repr

namespace Config

/-! The OPEN parameters (R8 to R12, D12, D15 to D17): constants with no body, so that nothing can be proved of a value
the spec does not give. DESIGN CHOICE, log entry 2; safe. -/

/-- VARIANT of the device the model resets with (R8). -/
opaque openVariant : Byte
/-- VARIANT_TABLE of the device the model resets with (R9, D15). -/
opaque openVariantTable : List (Byte × List Byte)
/-- CMD_SET_COLUMN of the device the model resets with (R10, D12). -/
opaque openCmdSetColumn : Byte
/-- CMD_SET_ROW of the device the model resets with (R10, D12). -/
opaque openCmdSetRow : Byte
/-- CMD_POWER_ON of the device the model resets with (R10, D12). -/
opaque openCmdPowerOn : Byte
/-- CMD_NORMAL_DISPLAY of the device the model resets with (R10, D12). -/
opaque openCmdNormalDisplay : Byte
/-- CMD_CONTRAST of the device the model resets with (R10, D12). -/
opaque openCmdContrast : Byte
/-- SETTLE_DELAY of the device the model resets with (R11, D16). -/
opaque openSettleDelay : Nat
/-- DC_IDLE of the device the model resets with (R12, D17). -/
opaque openDcIdle : Level
/-- LATCH_IDLE of the device the model resets with (R12, D17). -/
opaque openLatchIdle : Level
/-- D_IDLE of the device the model resets with (R12, D17). -/
opaque openDIdle : Byte

/-- The configuration `State.reset` is constructed with: the panel the document describes is 128 pixels wide and 128
rows high (R6, R7), and every OPEN parameter is left open. DESIGN CHOICE, log entry 1; unsafe for a claim about
`State.reset` alone. -/
def device : Config where
  width := 128
  height := 128
  variant := openVariant
  variantTable := openVariantTable
  cmdSetColumn := openCmdSetColumn
  cmdSetRow := openCmdSetRow
  cmdPowerOn := openCmdPowerOn
  cmdNormalDisplay := openCmdNormalDisplay
  cmdContrast := openCmdContrast
  settleDelay := openSettleDelay
  dcIdle := openDcIdle
  latchIdle := openLatchIdle
  dIdle := openDIdle
  transport := .parallel

end Config

end Sys2Proof
end

