-- ==== Sys2Proof/Machine/State.lean ====
section
/-! DEFINITION. The state record of 10_state.md R36, its reset values (R230), and the reasons a step can stop. -/

namespace Sys2Proof.Machine

/-- LIFECYCLE, a two-bit register whose value 3 is never held (R22). -/
inductive Lifecycle where
  | uninitialized
  | configuring
  | on
deriving DecidableEq, Repr

/-- The four values STATUS holds (R24, R200). -/
inductive Status where
  | ok
  | outOfBounds
  | wrongPosition
  | unsupportedVariant
deriving DecidableEq, Repr

/-- The reasons of a refused request (R205). -/
inductive RefusalReason where
  /-- OP = 0x00 or OP ≥ 0x0D (R75). -/
  | reservedOpcode
  /-- A reserved bit of a defined request is 1 (R76). -/
  | reservedBits
  /-- A bus request in Uninitialized (R187). -/
  | linesNotConfigured
  /-- CONFIGURE_LINES in Configuring or On (R187). -/
  | alreadyConfigured
  /-- POWER_ON in On (R187). -/
  | alreadyOn
deriving DecidableEq, Repr

/-- The output lines of R26. -/
inductive Line where
  | cs | wr | rd | dc | latch | d
deriving DecidableEq, Repr

/-- The one-bit output lines of R26: every line but the data lines D. -/
inductive Wire where
  | cs | wr | rd | dc | latch
deriving DecidableEq, Repr

/-- The bus events of R28. -/
inductive BusEvent where
  /-- `Config(L)`: line L is configured as an output. -/
  | config (l : Line)
  /-- `Set(L, v)` for a one-bit line. -/
  | set (w : Wire) (v : Level)
  /-- `Set(D, b)`: all eight data lines as one event (R144). -/
  | setD (b : Byte)
  /-- `Settle`: the block waits SETTLE_DELAY before its next event (R185). -/
  | settle
deriving DecidableEq, Repr

/-- The state of one line (R27): `cfg(L)` and `lvl(L)`. A level of `none` is the spec's ⊥, undriven. -/
structure LineState (α : Type) where
  configured : Bool
  level : Option α
deriving DecidableEq, Repr

/-- The state of every line of R26. -/
structure Lines where
  cs : LineState Level
  wr : LineState Level
  rd : LineState Level
  dc : LineState Level
  latch : LineState Level
  d : LineState Byte
deriving DecidableEq, Repr

/-- The lines before CONFIGURE_LINES: not configured and undriven (R27, R230). -/
def Lines.undriven : Lines where
  cs := ⟨false, none⟩
  wr := ⟨false, none⟩
  rd := ⟨false, none⟩
  dc := ⟨false, none⟩
  latch := ⟨false, none⟩
  d := ⟨false, none⟩

/-- The buffer as (index, byte) pairs in the canonical form of `Memory.wf`; an unlisted index reads `Memory.unlisted`. -/
abbrev Memory := List Host.Cell

/-- Why the machine stops with a fault. The spec gives the block no trap (R204, R209). -/
inductive Fault where
  /-- Raised by the buffer accesses of Machine/Ops.lean at an index at or above BUF_LEN, which reaches no byte (R60).
  Safe: it stops the model, and no request of a block with a legal configuration reaches it. -/
  | noSuchByte (index : Nat)
deriving DecidableEq, Repr

/-- Why there is no next state. -/
inductive Refusal where
  /-- Raised by an arm of `exec` whose request has no meaning yet; no arm of this model does. Safe. -/
  | notModelled (mnemonic : String)
  /-- Raised by `refuse` in a meaning, and by `step` for a word that decodes to no request or for a state whose REFUSED
  mark is set (R17, R30, R205). Safe: the spec gives the request no meaning. -/
  | refuse (reason : RefusalReason)
  /-- Raised by `construct` for a configuration outside R6, R7 and R13, which builds no block (R232). Safe. -/
  | illegalConfiguration
deriving DecidableEq, Repr

/-- The complete state of one block (R36), between its configuration and its request port. -/
structure State where
  /-- The parameters of the block (R6 to R13). Not state in the spec (R32): no step changes them. Log entry 1. -/
  config : Config
  /-- buf (R20). -/
  buf : Memory
  /-- LIFECYCLE (R22). -/
  lifecycle : Lifecycle
  /-- WIN_COL_START (R23). -/
  winColStart : Byte
  /-- WIN_COL_STOP (R23). -/
  winColStop : Byte
  /-- WIN_ROW_START (R23). -/
  winRowStart : Byte
  /-- WIN_ROW_STOP (R23). -/
  winRowStop : Byte
  /-- STATUS (R24). -/
  status : Status
  /-- ORIENT_UNDEF (R25). -/
  orientUndef : Bool
  /-- cfg and lvl of every line (R27). -/
  lines : Lines
  /-- The bus trace, oldest event first (R28). -/
  trace : List BusEvent
  /-- REFUSED (R30). -/
  refused : Option RefusalReason
  /-- The request words the host has still to present, in the order it presents them (R5, R70). Log entry 3. -/
  requests : List Word
  /-- The response word last returned to the host (R70, R79); none before the first. Log entry 4. -/
  response : Option Word
deriving DecidableEq, Repr

/-- A newly constructed block with configuration `c`: every value of R230's table. -/
def State.ofConfig (c : Config) : State where
  config := c
  buf := []
  lifecycle := .uninitialized
  winColStart := 0
  winColStop := 0
  winRowStart := 0
  winRowStop := 0
  status := .ok
  orientUndef := false
  lines := .undriven
  trace := []
  refused := none
  requests := []
  response := none

/-- The machine right after reset (R230), constructed with `Config.device` (log entry 1). The block waits for the host's
first request (R231). -/
def State.reset : State := .ofConfig .device

end Sys2Proof.Machine
end

