-- ==== Sys2Proof/Machine/Flags.lean ====
section
/-! DEFINITION. The status codes and the response word. The block has no condition codes (R34): STATUS, ORIENT_UNDEF and
LIFECYCLE are all the status there is, and the host reads them in the response word (R79). -/

namespace Sys2Proof.Machine

/-- The numeric code of a status (R200). -/
def Status.code : Status → Byte
  | .ok => 0x00
  | .outOfBounds => 0x01
  | .wrongPosition => 0x02
  | .unsupportedVariant => 0x03

/-- The encoding of LIFECYCLE (R22). -/
def Lifecycle.code : Lifecycle → BitVec 2
  | .uninitialized => 0
  | .configuring => 1
  | .on => 2

/-- The four data bytes of a response (R79, R80). -/
structure ResponseData where
  r0 : Byte
  r1 : Byte
  r2 : Byte
  r3 : Byte
deriving DecidableEq, Repr

/-- The data of a request that returns none, and of every failure (R80). -/
def ResponseData.zero : ResponseData := ⟨0, 0, 0, 0⟩

/-- The data of a request that returns one byte in RDATA0 (R80). -/
def ResponseData.ofByte (b : Byte) : ResponseData := ⟨b, 0, 0, 0⟩

/-- The response word of R79, from the state after the request and the response data. -/
def responseWord (s : State) (d : ResponseData) : Word :=
  0#16 ++ d.r3 ++ d.r2 ++ d.r1 ++ d.r0 ++ 0#5 ++ BitVec.ofBool s.orientUndef ++ s.lifecycle.code ++ s.status.code

end Sys2Proof.Machine
end

