-- ==== Sys2Proof/Machine/Operands.lean ====
section
/-! DEFINITION. The operand forms (R72, R73) and what each is computed into: the buffer byte and nibble of a coordinate,
a gray level, a region and its window. Operands are unsigned and zero-extended (R16, R73). -/

namespace Sys2Proof

/-- HALF_W, the packed bytes of one row (R14). -/
def Config.halfW (c : Config) : Nat := c.width / 2

/-- BUF_LEN, the buffer's length in bytes (R14). -/
def Config.bufLen (c : Config) : Nat := c.width * c.height / 2

/-- A configuration that builds a block (R6, R7, R13, R232). -/
def Config.legal (c : Config) : Bool :=
  decide (16 ≤ c.width) && decide (c.width ≤ 128) && decide (c.width % 2 = 0)
    && decide (16 ≤ c.height) && decide (c.height ≤ 128) && decide (c.transport = .parallel)

/-- The entry a key has in a table: the first with that key. -/
def lookupEntry (key : Byte) : List (Byte × List Byte) → Option (List Byte)
  | [] => none
  | (k, cmds) :: rest => if k = key then some cmds else lookupEntry key rest

/-- `VARIANT_TABLE(VARIANT)` (R184). -/
def Config.variantCommands (c : Config) : Option (List Byte) := lookupEntry c.variant c.variantTable

namespace Machine

/-! ### Formats P and G: a pixel coordinate -/

/-- The bounds check of SET_PIXEL and GET_PIXEL (R100, R102). -/
def pixelOutside (c : Config) (x y : Byte) : Bool := decide (c.width ≤ x.toNat) || decide (c.height ≤ y.toNat)

/-- `idx(x, y)` (R51). -/
def pixelIndex (c : Config) (x y : Byte) : Nat := x.toNat / 2 + y.toNat * c.halfW

/-- The pixel's nibble of its byte: the high nibble for odd x, the low one for even x (R52). -/
def nibbleOf (x b : Byte) : BitVec 4 := if x.toNat % 2 = 1 then b.extractLsb' 4 4 else b.extractLsb' 0 4

/-- The gray level LEVEL stands for, in an 8-bit value (R101). -/
def grayLevel (level : Byte) : Byte := level &&& 0x0F

/-- The byte with the pixel's nibble replaced and the other kept (R100). -/
def withNibble (x b level : Byte) : Byte :=
  if x.toNat % 2 = 1 then (b &&& 0x0F) ||| (level <<< 4) else (b &&& 0xF0) ||| level

/-! ### Format R: a region and its window -/

/-- A region `(xStart, yStart, xStop, yStop)`, bounds inclusive (R72). -/
structure Region where
  xs : Byte
  ys : Byte
  xe : Byte
  ye : Byte
deriving DecidableEq, Repr

/-- A window `(colStart, colStop, rowStart, rowStop)`: the controller's addressing arguments (R120). -/
structure Window where
  colStart : Byte
  colStop : Byte
  rowStart : Byte
  rowStop : Byte
deriving DecidableEq, Repr

/-- The window function (R120): range check per axis, then the order check (R123), then the halving (R125). -/
def windowOf (c : Config) (r : Region) : Except Status Window :=
  if c.width ≤ r.xs.toNat ∨ c.width ≤ r.xe.toNat ∨ c.height ≤ r.ys.toNat ∨ c.height ≤ r.ye.toNat then
    .error .wrongPosition
  else if r.xe.toNat < r.xs.toNat ∨ r.ye.toNat < r.ys.toNat then
    .error .wrongPosition
  else
    .ok ⟨r.xs / 2, r.xe / 2, r.ys, r.ye⟩

/-- The region `(0, 0, WIDTH-1, HEIGHT-1)` (R160). -/
def fullRegion (c : Config) : Region := ⟨0, 0, .ofNat 8 (c.width - 1), .ofNat 8 (c.height - 1)⟩

/-- `a .. b`, inclusive and ascending, empty when a > b (R17). -/
def upTo (a b : Nat) : List Nat := List.range' a (b + 1 - a)

/-- The buffer indices of a window in the order FLUSH_REGION streams them: row by row, column by column (R161). -/
def windowIndices (c : Config) (w : Window) : List Nat :=
  (upTo w.rowStart.toNat w.rowStop.toNat).flatMap fun row =>
    (upTo w.colStart.toNat w.colStop.toNat).map fun col => col + row * c.halfW

/-- The buffer indices FLUSH_ALL streams, 0 .. BUF_LEN-1 (R160). -/
def allIndices (c : Config) : List Nat := List.range c.bufLen

/-- Where R167 says byte k of a flush's stream belongs: (column, row), for a window of n columns. The placement is the
controller's (D31); the block only streams in this order. -/
def streamPosition (w : Window) (k : Nat) : Nat × Nat :=
  let n := w.colStop.toNat - w.colStart.toNat + 1
  (w.colStart.toNat + k % n, w.rowStart.toNat + k / n)

end Machine

end Sys2Proof
end

