-- ==== Sys2Proof/Machine/Ops.lean ====
section
/-! DEFINITION. The named operations the meanings are built from: the buffer, the lines and the trace, the window
registers, and the three ways a request ends: done, fail and refuse (R17). -/

namespace Sys2Proof.Machine

/-! ### The buffer (R20, R50) -/

/-- What an index nothing is listed for reads as: the buffer is zero-filled (R20). -/
def Memory.unlisted : Byte := 0x00

/-- The byte at an index. -/
def Memory.read (i : Nat) : Memory → Byte
  | [] => Memory.unlisted
  | (j, b) :: m => if j = i then b else Memory.read i m

/-- `m` with `(i, v)` put before its cells, unless `v` is what an unlisted index reads as. -/
def Memory.put (i : Nat) (v : Byte) (m : Memory) : Memory :=
  if v = Memory.unlisted then m else (i, v) :: m

/-- The memory with byte `i` replaced by `v`, in canonical form when it was. -/
def Memory.write (i : Nat) (v : Byte) : Memory → Memory
  | [] => Memory.put i v []
  | (j, b) :: m =>
    if j < i then (j, b) :: Memory.write i v m
    else if j = i then Memory.put i v m
    else Memory.put i v ((j, b) :: m)

/-- Every cell's index is at least `lo`, they rise strictly, and no cell holds the unlisted byte. -/
def Memory.wfFrom (lo : Nat) : Memory → Bool
  | [] => true
  | (j, b) :: m => decide (lo ≤ j) && decide (b ≠ Memory.unlisted) && Memory.wfFrom (j + 1) m

/-- The canonical form: equal buffers are equal lists. -/
def Memory.wf (m : Memory) : Bool := Memory.wfFrom 0 m

/-- `buf[i]` (R17); no byte exists at or above BUF_LEN (R60). -/
def bufRead (i : Nat) (s : State) : Except Fault Byte :=
  if i < s.config.bufLen then .ok (s.buf.read i) else .error (.noSuchByte i)

/-- The buffer holds `m`. -/
def storeBuffer (m : Memory) (s : State) : State := { s with buf := m }

/-- `buf[i] <- v` (R17). -/
def bufWrite (i : Nat) (v : Byte) (s : State) : Except Fault State :=
  if i < s.config.bufLen then .ok (storeBuffer (s.buf.write i v) s) else .error (.noSuchByte i)

/-- `buf[i]` for each index in order: the transfer engine's view of the buffer (R107). -/
def bufReadAll : List Nat → State → Except Fault (List Byte)
  | [], _ => .ok []
  | i :: is, s =>
    match bufRead i s with
    | .error f => .error f
    | .ok b =>
      match bufReadAll is s with
      | .error f => .error f
      | .ok bs => .ok (b :: bs)

/-! ### The lines and the trace (R26 to R28) -/

/-- A line with its level set. -/
def LineState.drive {α : Type} (l : LineState α) (v : α) : LineState α := { l with level := some v }

/-- A line configured as an output. -/
def LineState.asOutput {α : Type} (l : LineState α) : LineState α := { l with configured := true }

/-- The level of a one-bit line, none when undriven (R27). -/
def Lines.wireLevel (l : Lines) : Wire → Option Level
  | .cs => l.cs.level
  | .wr => l.wr.level
  | .rd => l.rd.level
  | .dc => l.dc.level
  | .latch => l.latch.level

/-- What an event does to the lines (R27, R28). -/
def Lines.apply (l : Lines) : BusEvent → Lines
  | .config .cs => { l with cs := l.cs.asOutput }
  | .config .wr => { l with wr := l.wr.asOutput }
  | .config .rd => { l with rd := l.rd.asOutput }
  | .config .dc => { l with dc := l.dc.asOutput }
  | .config .latch => { l with latch := l.latch.asOutput }
  | .config .d => { l with d := l.d.asOutput }
  | .set .cs v => { l with cs := l.cs.drive v }
  | .set .wr v => { l with wr := l.wr.drive v }
  | .set .rd v => { l with rd := l.rd.drive v }
  | .set .dc v => { l with dc := l.dc.drive v }
  | .set .latch v => { l with latch := l.latch.drive v }
  | .setD b => { l with d := l.d.drive b }
  | .settle => l

/-- The lines after a list of events. -/
def Lines.applyAll : Lines → List BusEvent → Lines
  | l, [] => l
  | l, e :: es => Lines.applyAll (l.apply e) es

/-- `emit` for each event in order (R17, R28): appended to the trace and applied to the lines. -/
def emitAll (es : List BusEvent) (s : State) : State :=
  { s with trace := s.trace ++ es, lines := s.lines.applyAll es }

/-! ### The window registers (R23) -/

/-- The four window registers latch a window. -/
def latchWindow (w : Window) (s : State) : State :=
  { s with
    winColStart := w.colStart
    winColStop := w.colStop
    winRowStart := w.rowStart
    winRowStop := w.rowStop }

/-- RDATA0..3 of the requests that return the window registers (R80). -/
def windowData (s : State) : ResponseData := ⟨s.winColStart, s.winColStop, s.winRowStart, s.winRowStop⟩

/-! ### The lifecycle and the orientation mark (R22, R25) -/

/-- `LIFECYCLE <- l`. -/
def enter (l : Lifecycle) (s : State) : State := { s with lifecycle := l }

/-- `ORIENT_UNDEF <- 1`. -/
def markOrientation (s : State) : State := { s with orientUndef := true }

/-! ### How a request ends (R17, R18) -/

/-- STATUS takes the code, and the response word of the state that leaves is returned (R24, R79). -/
def respond (code : Status) (d : ResponseData) (s : State) : State :=
  let t := { s with status := code }
  { t with response := some (responseWord t d) }

/-- `done`: the request completes with STATUS OK and its response data (R17, R80). -/
def done (d : ResponseData) (s : State) : Host.Outcome State Fault Refusal := .next (respond .ok d s)

/-- `fail Code`: the spec's raise. It ends the request with that status and response data 0 (R17, R80), saves nothing,
enters no handler and has no return (R209, R210). -/
def fail (code : Status) (s : State) : Host.Outcome State Fault Refusal := .next (respond code .zero s)

/-- `refuse(reason)`: no next state (R17, R205). -/
def refuse (reason : RefusalReason) : Host.Outcome State Fault Refusal := .refused (.refuse reason)

/-- The sticky REFUSED mark (R30). -/
def markRefused (reason : RefusalReason) (s : State) : State := { s with refused := some reason }

/-! ### Construction (R230, R232) -/

/-- The only reset: a legal configuration builds a block in the reset state, another builds none. -/
def construct (c : Config) : Host.Outcome State Fault Refusal :=
  if c.legal then .next (State.ofConfig c) else .refused .illegalConfiguration

end Sys2Proof.Machine
end

