-- ==== Sys2Proof/Machine/ProtocolFraming.lean ====
section
/-! DEFINITION. The command/data protocol framer (42_protocol_framing.md): the transaction, its two requests, and the
controller's reading of the trace. -/

namespace Sys2Proof.Machine

/-- The transaction sequence `frame(dc, b)`: eight events (R141). -/
def frame (dc : Level) (b : Byte) : List BusEvent :=
  [ .set .rd .high
  , .set .cs .low
  , .set .wr .high
  , .set .dc dc
  , .set .wr .low
  , .setD b
  , .set .wr .high
  , .set .cs .high ]

/-- Bytes framed as commands, DC = 0 (R140). -/
def frameCommands (bytes : List Byte) : List BusEvent := bytes.flatMap (frame .low)

/-- Bytes framed as data, DC = 1 (R140). -/
def frameData (bytes : List Byte) : List BusEvent := bytes.flatMap (frame .high)

/-- SEND_COMMAND (R142). -/
def execSendCommand (b : Byte) (s : State) : Host.Outcome State Fault Refusal :=
  match s.lifecycle with
  | .uninitialized => refuse .linesNotConfigured
  | .configuring | .on => done .zero (emitAll (frame .low b) s)

/-- SEND_DATA (R143). -/
def execSendData (b : Byte) (s : State) : Host.Outcome State Fault Refusal :=
  match s.lifecycle with
  | .uninitialized => refuse .linesNotConfigured
  | .configuring | .on => done .zero (emitAll (frame .high b) s)

/-! ### What the controller latches (R147) -/

/-- The two byte kinds, told apart by DC (R147). -/
inductive Kind where
  | command
  | data
deriving DecidableEq, Repr

/-- One latched byte. Its value is the level of D, which is none when D is undriven; R147 gives no other value then, and
no request of the block latches with D undriven. -/
structure Latched where
  kind : Kind
  value : Option Byte
deriving DecidableEq, Repr

/-- The byte latched at an event with the lines as they are before it: at a rising WR with CS = 0 (R147). -/
def latchAt (l : Lines) (e : BusEvent) : Option Latched :=
  match e with
  | .set .wr .high =>
    if l.wr.level = some .low ∧ l.cs.level = some .low then
      some ⟨if l.dc.level = some .low then .command else .data, l.d.level⟩
    else none
  | _ => none

/-- The bytes latched over a trace segment that starts with the lines `l` (R147). -/
def latchedFrom : Lines → List BusEvent → List Latched
  | _, [] => []
  | l, e :: es => (latchAt l e).toList ++ latchedFrom (l.apply e) es

/-- `latched(trace)` (R147), from the reset levels. -/
def latched (trace : List BusEvent) : List Latched := latchedFrom .undriven trace

/-- The transaction count of a trace segment: the number of bytes latched (R29). -/
def transactionCount (l : Lines) (segment : List BusEvent) : Nat := (latchedFrom l segment).length

end Sys2Proof.Machine
end

