-- ==== Sys2Proof/Machine/DeviceLifecycle.lean ====
section
/-! DEFINITION. The device lifecycle (44_lifecycle.md): line configuration, power-on, contrast. -/

namespace Sys2Proof.Machine

/-- The twelve events of CONFIGURE_LINES: each line configured, then set to its idle level (R180, R181). -/
def configureEvents (c : Config) : List BusEvent :=
  [ .config .cs, .set .cs .high
  , .config .wr, .set .wr .high
  , .config .rd, .set .rd .high
  , .config .dc, .set .dc c.dcIdle
  , .config .latch, .set .latch c.latchIdle
  , .config .d, .setD c.dIdle ]

/-- CONFIGURE_LINES (R180). -/
def execConfigureLines (s : State) : Host.Outcome State Fault Refusal :=
  match s.lifecycle with
  | .uninitialized => done .zero (enter .configuring (emitAll (configureEvents s.config) s))
  | .configuring | .on => refuse .alreadyConfigured

/-- The part of the power-on sequence every variant sends: the power-on command, the settle wait, the normal-display
command (R183, R185). -/
def powerOnEvents (c : Config) : List BusEvent :=
  frame .low c.cmdPowerOn ++ [.settle] ++ frame .low c.cmdNormalDisplay

/-- POWER_ON (R183): a variant with no entry is reported after the sequence has run, and is not an abort (R203). -/
def execPowerOn (s : State) : Host.Outcome State Fault Refusal :=
  match s.lifecycle with
  | .uninitialized => refuse .linesNotConfigured
  | .on => refuse .alreadyOn
  | .configuring =>
    match s.config.variantCommands with
    | some cmds =>
      done .zero (enter .on (emitAll (powerOnEvents s.config ++ frameCommands cmds) s))
    | none =>
      fail .unsupportedVariant (markOrientation (enter .on (emitAll (powerOnEvents s.config) s)))

/-- SET_CONTRAST (R186): the contrast command and the raw value, both in command mode; the value is not stored. -/
def execSetContrast (v : Byte) (s : State) : Host.Outcome State Fault Refusal :=
  match s.lifecycle with
  | .uninitialized => refuse .linesNotConfigured
  | .configuring | .on => done .zero (emitAll (frame .low s.config.cmdContrast ++ frame .low v) s)

end Sys2Proof.Machine
end

