-- ==== Sys2Proof/Machine/PixelBuffer.lean ====
section
/-! DEFINITION. The pixel packer's requests (40_pixel_buffer.md). None emits a bus event; all are legal in every
LIFECYCLE state (R187). -/

namespace Sys2Proof.Machine

/-- SET_PIXEL (R100, R101): a read-modify-write of one byte. -/
def execSetPixel (x y level : Byte) (s : State) : Host.Outcome State Fault Refusal :=
  if pixelOutside s.config x y then fail .outOfBounds s
  else
    match bufRead (pixelIndex s.config x y) s with
    | .error f => .fault f
    | .ok b =>
      match bufWrite (pixelIndex s.config x y) (withNibble x b (grayLevel level)) s with
      | .error f => .fault f
      | .ok t => done .zero t

/-- GET_PIXEL (R102). -/
def execGetPixel (x y : Byte) (s : State) : Host.Outcome State Fault Refusal :=
  if pixelOutside s.config x y then fail .outOfBounds s
  else
    match bufRead (pixelIndex s.config x y) s with
    | .error f => .fault f
    | .ok b => done (.ofByte ((nibbleOf x b).setWidth 8)) s

/-- CLEAR (R104): every byte 0x00. The buffer of which every byte reads as unlisted lists nothing; the order of the
byte writes is not observable (R105). -/
def execClear (s : State) : Host.Outcome State Fault Refusal := done .zero (storeBuffer [] s)

/-- READ_BYTE (R106). -/
def execReadByte (idx : Index) (s : State) : Host.Outcome State Fault Refusal :=
  if s.config.bufLen ≤ idx.toNat then fail .outOfBounds s
  else
    match bufRead idx.toNat s with
    | .error f => .fault f
    | .ok b => done (.ofByte b) s

end Sys2Proof.Machine
end

