-- ==== Sys2Proof/Machine/TransferEngine.lean ====
section
/-! DEFINITION. The transfer engine (43_transfer_engine.md): the full and the windowed flush. -/

namespace Sys2Proof.Machine

/-- The six bytes of the addressing command sequence, in order (R124). -/
def windowCommands (c : Config) (w : Window) : List Byte :=
  [c.cmdSetColumn, w.colStart, w.colStop, c.cmdSetRow, w.rowStart, w.rowStop]

/-- `sendWindow(w)`: each of them one command transaction (R124). -/
def sendWindow (c : Config) (w : Window) : List BusEvent := frameCommands (windowCommands c w)

/-- What both flushes do once they have a window: latch it, send it, stream the buffer bytes at the indices as data,
and return the window registers (R160, R161, R165). -/
def streamWindow (w : Window) (indices : List Nat) (s : State) : Host.Outcome State Fault Refusal :=
  match bufReadAll indices s with
  | .error f => .fault f
  | .ok bytes =>
    let t := emitAll (sendWindow s.config w ++ frameData bytes) (latchWindow w s)
    done (windowData t) t

/-- FLUSH_ALL (R160). -/
def execFlushAll (s : State) : Host.Outcome State Fault Refusal :=
  match s.lifecycle with
  | .uninitialized => refuse .linesNotConfigured
  | .configuring | .on =>
    match windowOf s.config (fullRegion s.config) with
    | .error code => fail code s
    | .ok w => streamWindow w (allIndices s.config) s

/-- FLUSH_REGION (R161): an invalid region fails before any bus event (R164). -/
def execFlushRegion (xs ys xe ye : Byte) (s : State) : Host.Outcome State Fault Refusal :=
  match s.lifecycle with
  | .uninitialized => refuse .linesNotConfigured
  | .configuring | .on =>
    match windowOf s.config ⟨xs, ys, xe, ye⟩ with
    | .error code => fail code s
    | .ok w => streamWindow w (windowIndices s.config w) s

end Sys2Proof.Machine
end

