-- ==== Sys2Proof/Machine/WindowAddressing.lean ====
section
/-! DEFINITION. The windowed addressing engine's request (41_window_addressing.md). -/

namespace Sys2Proof.Machine

/-- COMPUTE_WINDOW (R122): on failure the window registers keep their values. -/
def execComputeWindow (xs ys xe ye : Byte) (s : State) : Host.Outcome State Fault Refusal :=
  match windowOf s.config ⟨xs, ys, xe, ye⟩ with
  | .error code => fail code s
  | .ok w => done (windowData (latchWindow w s)) (latchWindow w s)

end Sys2Proof.Machine
end

