-- ==== Sys2Proof/Syntax.lean ====
section
/-! DEFINITION. The requests of 30_encoding.md R74, one constructor per row of the opcode table. -/

namespace Sys2Proof

/-- A decoded request with its operand fields (R72, R74). -/
inductive Instr where
  /-- SET_PIXEL X, Y, LEVEL (format P, R100). -/
  | setPixel (x y level : Byte)
  /-- GET_PIXEL X, Y (format G, R102). -/
  | getPixel (x y : Byte)
  /-- CLEAR (format N, R104). -/
  | clear
  /-- READ_BYTE IDX (format I, R106). -/
  | readByte (idx : Index)
  /-- COMPUTE_WINDOW XS, YS, XE, YE (format R, R122). -/
  | computeWindow (xs ys xe ye : Byte)
  /-- FLUSH_ALL (format N, R160). -/
  | flushAll
  /-- FLUSH_REGION XS, YS, XE, YE (format R, R161). -/
  | flushRegion (xs ys xe ye : Byte)
  /-- SEND_COMMAND B (format B, R142). -/
  | sendCommand (b : Byte)
  /-- SEND_DATA B (format B, R143). -/
  | sendData (b : Byte)
  /-- CONFIGURE_LINES (format N, R180). -/
  | configureLines
  /-- POWER_ON (format N, R183). -/
  | powerOn
  /-- SET_CONTRAST V (format B, R186). -/
  | setContrast (v : Byte)
deriving DecidableEq, Repr

end Sys2Proof
end

