-- ==== Sys2Proof/Machine/Dispatch.lean ====
section
/-! DEFINITION. One arm per request (R74), each one call of its meaning. -/

namespace Sys2Proof.Machine

/-- The meaning of a decoded request. -/
def exec (i : Instr) (s : State) : Host.Outcome State Fault Refusal :=
  match i with
  | .setPixel x y level => Sys2Proof.Machine.execSetPixel x y level s
  | .getPixel x y => Sys2Proof.Machine.execGetPixel x y s
  | .clear => Sys2Proof.Machine.execClear s
  | .readByte idx => Sys2Proof.Machine.execReadByte idx s
  | .computeWindow xs ys xe ye => Sys2Proof.Machine.execComputeWindow xs ys xe ye s
  | .flushAll => Sys2Proof.Machine.execFlushAll s
  | .flushRegion xs ys xe ye => Sys2Proof.Machine.execFlushRegion xs ys xe ye s
  | .sendCommand b => Sys2Proof.Machine.execSendCommand b s
  | .sendData b => Sys2Proof.Machine.execSendData b s
  | .configureLines => Sys2Proof.Machine.execConfigureLines s
  | .powerOn => Sys2Proof.Machine.execPowerOn s
  | .setContrast v => Sys2Proof.Machine.execSetContrast v s

end Sys2Proof.Machine
end

