-- ==== Sys2Proof/WellFormed.lean ====
section
/-! DEFINITION. Which written requests are well formed: the operand ranges of the textual form (R81). The operand fields
of `Instr` carry their widths in their types (R72), so a decoded request is well formed; a written one need not be:
"An operand outside its field's range is an assembly error, not a truncation" (R81). -/

namespace Sys2Proof

/-- One request as R81 writes it, its operands the numbers the text holds. -/
inductive SourceLine where
  /-- `setpix X, Y, LEVEL` -/
  | setpix (x y level : Nat)
  /-- `getpix X, Y` -/
  | getpix (x y : Nat)
  /-- `clear` -/
  | clear
  /-- `rdbyte IDX` -/
  | rdbyte (idx : Nat)
  /-- `window XS, YS, XE, YE` -/
  | window (xs ys xe ye : Nat)
  /-- `flush` -/
  | flush
  /-- `flushr XS, YS, XE, YE` -/
  | flushr (xs ys xe ye : Nat)
  /-- `cmd B` -/
  | cmd (b : Nat)
  /-- `data B` -/
  | data (b : Nat)
  /-- `cfglines` -/
  | cfglines
  /-- `poweron` -/
  | poweron
  /-- `contrast V` -/
  | contrast (v : Nat)
deriving DecidableEq, Repr

/-- An 8-bit operand's range, 0..255 (R81). -/
def fitsByte (n : Nat) : Bool := n < 256

/-- The IDX operand's range, 0..65535 (R81). -/
def fitsIndex (n : Nat) : Bool := n < 65536

/-- Every operand is inside its field's range (R81). -/
def SourceLine.wellFormed : SourceLine → Bool
  | .setpix x y level => fitsByte x && fitsByte y && fitsByte level
  | .getpix x y => fitsByte x && fitsByte y
  | .clear => true
  | .rdbyte idx => fitsIndex idx
  | .window xs ys xe ye => fitsByte xs && fitsByte ys && fitsByte xe && fitsByte ye
  | .flush => true
  | .flushr xs ys xe ye => fitsByte xs && fitsByte ys && fitsByte xe && fitsByte ye
  | .cmd b => fitsByte b
  | .data b => fitsByte b
  | .cfglines => true
  | .poweron => true
  | .contrast v => fitsByte v

/-- How R81 writes a request. -/
def Instr.toLine : Instr → SourceLine
  | .setPixel x y level => .setpix x.toNat y.toNat level.toNat
  | .getPixel x y => .getpix x.toNat y.toNat
  | .clear => .clear
  | .readByte idx => .rdbyte idx.toNat
  | .computeWindow xs ys xe ye => .window xs.toNat ys.toNat xe.toNat ye.toNat
  | .flushAll => .flush
  | .flushRegion xs ys xe ye => .flushr xs.toNat ys.toNat xe.toNat ye.toNat
  | .sendCommand b => .cmd b.toNat
  | .sendData b => .data b.toNat
  | .configureLines => .cfglines
  | .powerOn => .poweron
  | .setContrast v => .contrast v.toNat

/-- A request is well formed when its written form is. -/
def Instr.wellFormed (i : Instr) : Bool := i.toLine.wellFormed

/-- The request a line is written for: none when an operand is out of range (an assembly error, R81). -/
def SourceLine.toInstr (l : SourceLine) : Option Instr :=
  if l.wellFormed then
    some <| match l with
      | .setpix x y level => .setPixel (.ofNat 8 x) (.ofNat 8 y) (.ofNat 8 level)
      | .getpix x y => .getPixel (.ofNat 8 x) (.ofNat 8 y)
      | .clear => .clear
      | .rdbyte idx => .readByte (.ofNat 16 idx)
      | .window xs ys xe ye => .computeWindow (.ofNat 8 xs) (.ofNat 8 ys) (.ofNat 8 xe) (.ofNat 8 ye)
      | .flush => .flushAll
      | .flushr xs ys xe ye => .flushRegion (.ofNat 8 xs) (.ofNat 8 ys) (.ofNat 8 xe) (.ofNat 8 ye)
      | .cmd b => .sendCommand (.ofNat 8 b)
      | .data b => .sendData (.ofNat 8 b)
      | .cfglines => .configureLines
      | .poweron => .powerOn
      | .contrast v => .setContrast (.ofNat 8 v)
  else none

end Sys2Proof
end

