-- ==== Sys2Proof/Decode.lean ====
section
/-! DEFINITION. Decoding, total on every 64-bit word (R78), and the encoder, both from the tables of 30_encoding.md. -/

namespace Sys2Proof

/-- Why a word is no request: the decoder's two refusals (R75, R76). -/
inductive DecodeError where
  /-- OP is 0x00 or 0x0D .. 0xFF (R75). -/
  | reservedOpcode
  /-- OP is defined and a reserved bit is 1 (R76). -/
  | reservedBits
deriving DecidableEq, Repr

/-- The rows of the opcode map (R74), named by mnemonic. -/
inductive Opcode where
  | setPixel | getPixel | clear | readByte | computeWindow | flushAll | flushRegion | sendCommand | sendData
  | configureLines | powerOn | setContrast
deriving DecidableEq, Repr

namespace Opcode

/-- The row of R74 with this OP, if there is one. -/
def ofByte (op : Byte) : Option Opcode :=
  match op.toNat with
  | 0x01 => some .setPixel
  | 0x02 => some .getPixel
  | 0x03 => some .clear
  | 0x04 => some .readByte
  | 0x05 => some .computeWindow
  | 0x06 => some .flushAll
  | 0x07 => some .flushRegion
  | 0x08 => some .sendCommand
  | 0x09 => some .sendData
  | 0x0A => some .configureLines
  | 0x0B => some .powerOn
  | 0x0C => some .setContrast
  | _ => none

/-- The match column of R74's second table. -/
def pattern : Opcode → Word
  | .setPixel       => 0x0100000000000000#64
  | .getPixel       => 0x0200000000000000#64
  | .clear          => 0x0300000000000000#64
  | .readByte       => 0x0400000000000000#64
  | .computeWindow  => 0x0500000000000000#64
  | .flushAll       => 0x0600000000000000#64
  | .flushRegion    => 0x0700000000000000#64
  | .sendCommand    => 0x0800000000000000#64
  | .sendData       => 0x0900000000000000#64
  | .configureLines => 0x0A00000000000000#64
  | .powerOn        => 0x0B00000000000000#64
  | .setContrast    => 0x0C00000000000000#64

/-- The mask column of R74's second table. -/
def mask : Opcode → Word
  | .setPixel       => 0xFFFFFFFFFF000000#64
  | .getPixel       => 0xFFFFFFFFFFFF0000#64
  | .clear          => 0xFFFFFFFFFFFFFFFF#64
  | .readByte       => 0xFFFFFFFFFFFF0000#64
  | .computeWindow  => 0xFFFFFFFF00000000#64
  | .flushAll       => 0xFFFFFFFFFFFFFFFF#64
  | .flushRegion    => 0xFFFFFFFF00000000#64
  | .sendCommand    => 0xFFFFFFFFFFFFFF00#64
  | .sendData       => 0xFFFFFFFFFFFFFF00#64
  | .configureLines => 0xFFFFFFFFFFFFFFFF#64
  | .powerOn        => 0xFFFFFFFFFFFFFFFF#64
  | .setContrast    => 0xFFFFFFFFFFFFFF00#64

end Opcode

/-! The fields of a request word (R71, R72, R78). -/

/-- OP, bits [63:56]. -/
def opField (w : Word) : Byte := w.extractLsb' 56 8

/-- X, XS and B, bits [7:0]. -/
def field0 (w : Word) : Byte := w.extractLsb' 0 8

/-- Y and YS, bits [15:8]. -/
def field1 (w : Word) : Byte := w.extractLsb' 8 8

/-- LEVEL and XE, bits [23:16]. -/
def field2 (w : Word) : Byte := w.extractLsb' 16 8

/-- YE, bits [31:24]. -/
def field3 (w : Word) : Byte := w.extractLsb' 24 8

/-- IDX, bits [15:0]. -/
def indexField (w : Word) : Index := w.extractLsb' 0 16

/-- The request of a row with the fields its format reads from the word (R78). -/
def Opcode.request (op : Opcode) (w : Word) : Instr :=
  match op with
  | .setPixel       => .setPixel (field0 w) (field1 w) (field2 w)
  | .getPixel       => .getPixel (field0 w) (field1 w)
  | .clear          => .clear
  | .readByte       => .readByte (indexField w)
  | .computeWindow  => .computeWindow (field0 w) (field1 w) (field2 w) (field3 w)
  | .flushAll       => .flushAll
  | .flushRegion    => .flushRegion (field0 w) (field1 w) (field2 w) (field3 w)
  | .sendCommand    => .sendCommand (field0 w)
  | .sendData       => .sendData (field0 w)
  | .configureLines => .configureLines
  | .powerOn        => .powerOn
  | .setContrast    => .setContrast (field0 w)

/-- Decoding (R78): the opcode first, then the reserved bits (R206). -/
def decode (w : Word) : Except DecodeError Instr :=
  match Opcode.ofByte (opField w) with
  | none => .error .reservedOpcode
  | some op => if w &&& op.mask = op.pattern then .ok (op.request w) else .error .reservedBits

/-- A request word from its OP and its four operand bytes, bits [31:24] first; bits [55:32] are zero (R71, R72). -/
def wordOf (op b3 b2 b1 b0 : Byte) : Word := op ++ 0#24 ++ b3 ++ b2 ++ b1 ++ b0

/-- The word of a request (R71, R72, R74). -/
def encode : Instr → Word
  | .setPixel x y level        => wordOf 0x01 0 level y x
  | .getPixel x y              => wordOf 0x02 0 0 y x
  | .clear                     => wordOf 0x03 0 0 0 0
  | .readByte idx              => wordOf 0x04 0 0 (idx.extractLsb' 8 8) (idx.extractLsb' 0 8)
  | .computeWindow xs ys xe ye => wordOf 0x05 ye xe ys xs
  | .flushAll                  => wordOf 0x06 0 0 0 0
  | .flushRegion xs ys xe ye   => wordOf 0x07 ye xe ys xs
  | .sendCommand b             => wordOf 0x08 0 0 0 b
  | .sendData b                => wordOf 0x09 0 0 0 b
  | .configureLines            => wordOf 0x0A 0 0 0 0
  | .powerOn                   => wordOf 0x0B 0 0 0 0
  | .setContrast v             => wordOf 0x0C 0 0 0 v

/-- The word whose low `nbits` bits are those of `w`, every higher bit zero. -/
def tableWord (nbits w : Nat) : Word := .ofNat 64 (w % 2 ^ nbits)

/-- What the decoder reads from the word whose bits the opcode table numbers: a request word is presented whole, with no
byte order (R55), so bit i of the table is bit i of the word. -/
def decodeTableWord (nbits w : Nat) : Option Instr :=
  match decode (tableWord nbits w) with
  | .ok i => some i
  | .error _ => none

end Sys2Proof
end

