-- ==== Sys2Proof/Machine/Port.lean ====
section
/-! DEFINITION. The request port (R70): taking the next request word, presenting one, and the refusal of a word that is
no request. -/

namespace Sys2Proof.Machine

/-- The reason a word that decodes to no request is refused for (R75, R76). -/
def decodeRefusal : DecodeError → RefusalReason
  | .reservedOpcode => .reservedOpcode
  | .reservedBits => .reservedBits

/-- The host has still to present the words `ws`. -/
def withRequests (ws : List Word) (s : State) : State := { s with requests := ws }

/-- The request word on the port and the state without it: the first of those the host has still to present. -/
def takeRequest (s : State) : Option (Word × State) :=
  match s.requests with
  | [] => none
  | w :: rest => some (w, withRequests rest s)

/-- The host presents a word before those it has still to present. -/
def present (w : Word) (s : State) : State := withRequests (w :: s.requests) s

end Sys2Proof.Machine
end

