-- ==== Sys2Proof/Machine/Step.lean ====
section
/-! DEFINITION. One step: the block takes the request on its port, executes it to completion and returns the response
(R5, R58, R70). -/

namespace Sys2Proof.Machine

/-- One step of the block. A state with REFUSED set has no further step (R30). With no request on the port the block
waits (R231). A word is decoded (R78): a reserved one is refused (R75, R76), a request is executed. -/
def step (s : State) : Host.Outcome State Fault Refusal :=
  match s.refused with
  | some reason => refuse reason
  | none =>
    match takeRequest s with
    | none => .next s
    | some (w, t) =>
      match decode w with
      | .error e => refuse (decodeRefusal e)
      | .ok i => exec i t

/-- The state a run is in after a step: the next state, or the same state with the REFUSED mark when the step was
refused (R30). -/
def advance (s : State) : State :=
  match step s with
  | .next t => t
  | .fault _ => s
  | .refused (.refuse reason) => markRefused reason s
  | .refused _ => s

/-- `s` with the word presented on the request port, so that the next step takes it. -/
def State.withFetchWord (s : State) (nbits w : Nat) : State := present (tableWord nbits w) s

end Sys2Proof.Machine
end

