-- ==== Sys2Proof/Machine/Assembler.lean ====
section
/-! DEFINITION. The textual form of requests and the pseudo-instructions (R81, R82). What R81 leaves open of a line's
text (blanks, letter case, digits) is fixed here: DESIGN CHOICE, log entry 9; nothing outside this file rests on it. -/

namespace Sys2Proof.Machine

/-- One written statement: a request, or a pseudo-instruction of R82. -/
inductive Statement where
  | request (l : SourceLine)
  /-- `clrpix X, Y` -/
  | clrpix (x y : Nat)
  /-- `flushpix X, Y` -/
  | flushpix (x y : Nat)
  /-- `init` -/
  | init
  /-- `setwin XS, YS, XE, YE` -/
  | setwin (xs ys xe ye : Nat)
deriving DecidableEq, Repr

/-- Why a line does not assemble. -/
inductive AsmError where
  /-- No statement has this name with this number of operands. -/
  | unknownStatement
  /-- An operand is not a decimal or 0x hexadecimal number. -/
  | badNumber
  /-- "An operand outside its field's range is an assembly error, not a truncation" (R81). -/
  | operandOutOfRange
deriving DecidableEq, Repr

/-- The requests a statement expands to (R82). -/
def Statement.expand (c : Config) : Statement → List SourceLine
  | .request l => [l]
  | .clrpix x y => [.setpix x y 0]
  | .flushpix x y => [.flushr x y x y]
  | .init => [.cfglines, .poweron]
  | .setwin xs ys xe ye =>
    [ .cmd c.cmdSetColumn.toNat, .cmd (xs / 2), .cmd (xe / 2)
    , .cmd c.cmdSetRow.toNat, .cmd ys, .cmd ye ]

/-- The words of a list of lines; an operand out of range anywhere assembles nothing. -/
def encodeLines : List SourceLine → Except AsmError (List Word)
  | [] => .ok []
  | l :: ls =>
    match l.toInstr with
    | none => .error .operandOutOfRange
    | some i =>
      match encodeLines ls with
      | .error e => .error e
      | .ok ws => .ok (encode i :: ws)

/-- The request words of a statement. -/
def Statement.assemble (c : Config) (st : Statement) : Except AsmError (List Word) := encodeLines (st.expand c)

/-! ### Reading a line of text -/

/-- The value of a digit character. -/
def digitValue (ch : Char) : Option Nat :=
  if '0'.toNat ≤ ch.toNat ∧ ch.toNat ≤ '9'.toNat then some (ch.toNat - '0'.toNat)
  else if 'a'.toNat ≤ ch.toNat ∧ ch.toNat ≤ 'f'.toNat then some (ch.toNat - 'a'.toNat + 10)
  else if 'A'.toNat ≤ ch.toNat ∧ ch.toNat ≤ 'F'.toNat then some (ch.toNat - 'A'.toNat + 10)
  else none

/-- The number a list of digits writes in a base, after the value read so far. -/
def readDigits (base acc : Nat) : List Char → Option Nat
  | [] => some acc
  | ch :: rest =>
    match digitValue ch with
    | none => none
    | some d => if d < base then readDigits base (acc * base + d) rest else none

/-- A number in decimal or 0x hex (R81). -/
def readNumber : List Char → Option Nat
  | [] => none
  | ['0', 'x'] => none
  | '0' :: 'x' :: digits => readDigits 16 0 digits
  | digits => readDigits 10 0 digits

/-- A blank between the words of a line. -/
def isBlank (ch : Char) : Bool := ch = ' ' || ch = '\t'

/-- The text before `;`, which begins a comment to the end of the line (R81). -/
def dropComment (text : List Char) : List Char := text.takeWhile (· ≠ ';')

/-- The text without the blanks around it. -/
def trimBlanks (text : List Char) : List Char :=
  ((text.dropWhile isBlank).reverse.dropWhile isBlank).reverse

/-- The parts of a text between its commas. -/
def splitCommas : List Char → List (List Char)
  | [] => [[]]
  | ch :: rest =>
    match splitCommas rest with
    | [] => [[ch]]
    | part :: parts => if ch = ',' then [] :: part :: parts else (ch :: part) :: parts

/-- The numbers of a list of operand texts. -/
def readOperands : List (List Char) → Option (List Nat)
  | [] => some []
  | part :: parts =>
    match readNumber (trimBlanks part), readOperands parts with
    | some n, some ns => some (n :: ns)
    | _, _ => none

/-- The operands after a statement's name: none when nothing follows it. -/
def operandsOf (text : List Char) : Option (List Nat) :=
  match trimBlanks text with
  | [] => some []
  | rest => readOperands (splitCommas rest)

/-- The statement of a name and its operands (R81, R82). -/
def statementOf (name : String) (operands : List Nat) : Option Statement :=
  match name, operands with
  | "setpix", [x, y, level] => some (.request (.setpix x y level))
  | "getpix", [x, y] => some (.request (.getpix x y))
  | "clear", [] => some (.request .clear)
  | "rdbyte", [idx] => some (.request (.rdbyte idx))
  | "window", [xs, ys, xe, ye] => some (.request (.window xs ys xe ye))
  | "flush", [] => some (.request .flush)
  | "flushr", [xs, ys, xe, ye] => some (.request (.flushr xs ys xe ye))
  | "cmd", [b] => some (.request (.cmd b))
  | "data", [b] => some (.request (.data b))
  | "cfglines", [] => some (.request .cfglines)
  | "poweron", [] => some (.request .poweron)
  | "contrast", [v] => some (.request (.contrast v))
  | "clrpix", [x, y] => some (.clrpix x y)
  | "flushpix", [x, y] => some (.flushpix x y)
  | "init", [] => some .init
  | "setwin", [xs, ys, xe, ye] => some (.setwin xs ys xe ye)
  | _, _ => none

/-- The words one line of text assembles to: none for a line that is blank or only a comment. -/
def assembleText (c : Config) (text : List Char) : Except AsmError (List Word) :=
  match trimBlanks (dropComment text) with
  | [] => .ok []
  | body =>
    match operandsOf (body.dropWhile (fun ch => !isBlank ch)) with
    | none => .error .badNumber
    | some ns =>
      match statementOf (String.ofList (body.takeWhile (fun ch => !isBlank ch))) ns with
      | none => .error .unknownStatement
      | some st => st.assemble c

end Sys2Proof.Machine
end

