-- ==== Sys2Proof/Safety.lean ====
section
/-! DEFINITION. What claims are stated in: the invariant of a block, the response a request returns, the legality table,
the causes of the status codes, and the order of line changes on the bus. -/

namespace Sys2Proof.Machine

/-! ### The invariant -/

/-- The lines between two requests once they are configured: every line is an output, CS, WR and RD are 1 (R146, R181),
LATCH holds its idle level, and DC and D are driven. -/
structure LinesIdle (c : Config) (l : Lines) : Prop where
  csConfigured : l.cs.configured = true
  wrConfigured : l.wr.configured = true
  rdConfigured : l.rd.configured = true
  dcConfigured : l.dc.configured = true
  latchConfigured : l.latch.configured = true
  dConfigured : l.d.configured = true
  csHigh : l.cs.level = some .high
  wrHigh : l.wr.level = some .high
  rdHigh : l.rd.level = some .high
  latchIdle : l.latch.level = some c.latchIdle
  dcDriven : l.dc.level.isSome = true
  dDriven : l.d.level.isSome = true

/-- The response word `w` is that of the state `t` with response data `d`: the layout of R79, field by field. -/
structure ResponseOf (t : State) (d : ResponseData) (w : Word) : Prop where
  status : w.extractLsb' 0 8 = t.status.code
  life : w.extractLsb' 8 2 = t.lifecycle.code
  orientUndef : w.extractLsb' 10 1 = BitVec.ofBool t.orientUndef
  zeroLow : w.extractLsb' 11 5 = 0
  rdata0 : w.extractLsb' 16 8 = d.r0
  rdata1 : w.extractLsb' 24 8 = d.r1
  rdata2 : w.extractLsb' 32 8 = d.r2
  rdata3 : w.extractLsb' 40 8 = d.r3
  zeroHigh : w.extractLsb' 48 16 = 0

/-- The state holds a response word, that of the state itself with data `d` (R79). -/
def Reports (t : State) (d : ResponseData) : Prop := ∃ w, t.response = some w ∧ ResponseOf t d w

/-- What is true between two requests of a block's configuration, buffer, registers, lines and trace. -/
structure State.BlockInv (s : State) : Prop where
  /-- A block exists only with a legal configuration (R232). -/
  legal : s.config.legal = true
  /-- The buffer is in its canonical form. -/
  bufCanonical : s.buf.wf = true
  /-- No byte exists at or above BUF_LEN (R20, R60). -/
  bufInRange : ∀ cell ∈ s.buf, cell.1 < s.config.bufLen
  /-- The window registers hold a window of the buffer (R23, R121). -/
  colOrdered : s.winColStart.toNat ≤ s.winColStop.toNat
  colInRange : s.winColStop.toNat < s.config.halfW
  rowOrdered : s.winRowStart.toNat ≤ s.winRowStop.toNat
  rowInRange : s.winRowStop.toNat < s.config.height
  /-- The lines are what the trace leaves them (R27). -/
  linesReplay : s.lines = Lines.undriven.applyAll s.trace
  /-- Nothing is on the bus before CONFIGURE_LINES (R187, R233). -/
  quiet : s.lifecycle = .uninitialized → s.trace = []
  /-- The lines are idle between requests once configured (R146, R181). -/
  idle : s.lifecycle ≠ .uninitialized → LinesIdle s.config s.lines
  /-- RD is never driven to 0 (R150). -/
  rdNeverLow : BusEvent.set .rd .low ∉ s.trace
  /-- LATCH is only ever driven to its idle level (R141, R180). -/
  latchOnlyIdle : ∀ v, BusEvent.set .latch v ∈ s.trace → v = s.config.latchIdle
  /-- No byte was latched with D undriven (U10, R148). -/
  latchedDriven : ∀ b ∈ latched s.trace, b.value.isSome = true
  /-- ORIENT_UNDEF is clear before On (R25). -/
  orientBeforeOn : s.lifecycle ≠ .on → s.orientUndef = false
  /-- In On, ORIENT_UNDEF says that the variant has no entry (R25, R184). -/
  orientInOn : s.lifecycle = .on → (s.orientUndef = true ↔ s.config.variantCommands = none)

/-- What is true of every block between two requests. -/
structure State.Inv (s : State) : Prop extends State.BlockInv s where
  /-- STATUS is UNSUPPORTED_VARIANT only with ORIENT_UNDEF set (R203). -/
  statusOrient : s.status = .unsupportedVariant → s.orientUndef = true
  /-- The response the host holds is that of the present state (R79). -/
  responseCurrent : s.response ≠ none → ∃ d, Reports s d

/-! ### Which request is legal when (R187) -/

/-- The table of R187: the reason a request is refused in a lifecycle state, none where it is legal. -/
def lifecycleRefusal (i : Instr) (l : Lifecycle) : Option RefusalReason :=
  match i, l with
  | .setPixel .., _ | .getPixel .., _ | .clear, _ | .readByte .., _ | .computeWindow .., _ => none
  | .sendCommand .., .uninitialized | .sendData .., .uninitialized | .flushAll, .uninitialized
  | .flushRegion .., .uninitialized | .setContrast .., .uninitialized => some .linesNotConfigured
  | .sendCommand .., _ | .sendData .., _ | .flushAll, _ | .flushRegion .., _ | .setContrast .., _ => none
  | .configureLines, .uninitialized => none
  | .configureLines, _ => some .alreadyConfigured
  | .powerOn, .uninitialized => some .linesNotConfigured
  | .powerOn, .configuring => none
  | .powerOn, .on => some .alreadyOn

/-! ### The causes of the status codes (R200) -/

/-- A region with a coordinate out of range, or reversed (R200, R123). -/
def badRegion (c : Config) (xs ys xe ye : Byte) : Prop :=
  c.width ≤ xs.toNat ∨ c.width ≤ xe.toNat ∨ c.height ≤ ys.toNat ∨ c.height ≤ ye.toNat
    ∨ xe.toNat < xs.toNat ∨ ye.toNat < ys.toNat

/-- The cause of OUT_OF_BOUNDS (R200). -/
def boundsCause (c : Config) : Instr → Prop
  | .setPixel x y _ => c.width ≤ x.toNat ∨ c.height ≤ y.toNat
  | .getPixel x y => c.width ≤ x.toNat ∨ c.height ≤ y.toNat
  | .readByte idx => c.bufLen ≤ idx.toNat
  | .clear => False
  | .computeWindow _ _ _ _ => False
  | .flushAll => False
  | .flushRegion _ _ _ _ => False
  | .sendCommand _ => False
  | .sendData _ => False
  | .configureLines => False
  | .powerOn => False
  | .setContrast _ => False

/-- The cause of WRONG_POSITION (R200). -/
def regionCause (c : Config) : Instr → Prop
  | .computeWindow xs ys xe ye => badRegion c xs ys xe ye
  | .flushRegion xs ys xe ye => badRegion c xs ys xe ye
  | .setPixel _ _ _ => False
  | .getPixel _ _ => False
  | .readByte _ => False
  | .clear => False
  | .flushAll => False
  | .sendCommand _ => False
  | .sendData _ => False
  | .configureLines => False
  | .powerOn => False
  | .setContrast _ => False

/-- The cause of UNSUPPORTED_VARIANT (R200). -/
def variantCause (c : Config) (i : Instr) : Prop := i = .powerOn ∧ c.variantCommands = none

/-- The column "cause" of R200's table: when a request that ends does so with the code. -/
def causeOf (c : Config) (i : Instr) : Status → Prop
  | .ok => ¬ boundsCause c i ∧ ¬ regionCause c i ∧ ¬ variantCause c i
  | .outOfBounds => boundsCause c i
  | .wrongPosition => regionCause c i
  | .unsupportedVariant => variantCause c i

/-! ### Pixels -/

/-- The gray level of pixel (x, y) (R51, R52). -/
def State.pixel (s : State) (x y : Byte) : BitVec 4 := nibbleOf x (s.buf.read (pixelIndex s.config x y))

/-! ### Response data (R80) -/

/-- The row of R80's table for a request that succeeds, read from the state after it. -/
def responseDataOf (t : State) : Instr → ResponseData
  | .getPixel x y => .ofByte ((t.pixel x y).setWidth 8)
  | .readByte idx => .ofByte (t.buf.read idx.toNat)
  | .computeWindow .. | .flushAll | .flushRegion .. =>
    ⟨t.winColStart, t.winColStop, t.winRowStart, t.winRowStop⟩
  | .setPixel .. | .clear | .sendCommand .. | .sendData .. | .configureLines | .powerOn | .setContrast .. => .zero

/-- The requests that read the buffer and do not write it (R59). -/
def readsBuffer : Instr → Bool
  | .getPixel .. | .readByte .. | .flushAll | .flushRegion .. => true
  | .setPixel .. | .clear | .computeWindow .. | .sendCommand .. | .sendData .. | .configureLines | .powerOn
  | .setContrast .. => false

/-- The requests that write the buffer (R21). -/
def writesBuffer : Instr → Bool
  | .setPixel .. | .clear => true
  | .getPixel .. | .readByte .. | .computeWindow .. | .flushAll | .flushRegion .. | .sendCommand .. | .sendData ..
  | .configureLines | .powerOn | .setContrast .. => false

/-- The region a request computes a window for, none for a request that computes no window (R23). -/
def windowRegion (c : Config) : Instr → Option Region
  | .computeWindow xs ys xe ye | .flushRegion xs ys xe ye => some ⟨xs, ys, xe, ye⟩
  | .flushAll => some (fullRegion c)
  | .setPixel .. | .getPixel .. | .clear | .readByte .. | .sendCommand .. | .sendData .. | .configureLines | .powerOn
  | .setContrast .. => none

/-! ### The order of line changes (R145) -/

/-- The event gives its line a level different from the one it had: a *change* (R145). -/
def isChange (l : Lines) : BusEvent → Bool
  | .set w v => decide (l.wireLevel w ≠ some v)
  | .setD b => decide (l.d.level ≠ some b)
  | .config _ => false
  | .settle => false

/-- The changes of a trace segment that starts with the lines `l`, in order. -/
def changesFrom : Lines → List BusEvent → List BusEvent
  | _, [] => []
  | l, e :: es => if isChange l e then e :: changesFrom (l.apply e) es else changesFrom (l.apply e) es

/-- The event is one of the chip-select line. -/
def isChipSelect : BusEvent → Bool
  | .set .cs _ => true
  | _ => false

/-- What R145 asks of one event with the lines as they are before it: every change but of CS is made with CS = 0 (b), DC
changes only while WR is 1, before its falling edge (a), and D only while WR is 0, before the edge that latches (c). The
settle wait comes between transactions (R185). No line is configured. -/
def eventInOrder (l : Lines) (e : BusEvent) : Bool :=
  match e with
  | .set .cs _ => true
  | .set .dc _ => !isChange l e || (decide (l.cs.level = some .low) && decide (l.wr.level = some .high))
  | .set _ _ => !isChange l e || decide (l.cs.level = some .low)
  | .setD _ => !isChange l e || (decide (l.cs.level = some .low) && decide (l.wr.level = some .low))
  | .settle => decide (l.cs.level = some .high)
  | .config _ => false

/-- Every event of a trace segment that starts with the lines `l` is in order. -/
def busInOrder : Lines → List BusEvent → Bool
  | _, [] => true
  | l, e :: es => eventInOrder l e && busInOrder (l.apply e) es

end Sys2Proof.Machine
end

