-- ==== Sys2Proof/Certificates/Slice0/Obligations.lean ====
section
/-! DEFINITION. The statements for the provers, each over every configuration and every state its hypotheses admit.
A statement is about the block; none rests on the values `State.reset` is constructed with (log entries 1 to 4). -/

open Sys2Proof Sys2Proof.Machine

/-! ### Words and steps -/

/-- Every request is well formed, and the word it is encoded as decodes to it, whatever its operands. -/
def Obligations.DecodeOfEncodeIsTheRequest : Prop :=
  ∀ i : Instr, i.wellFormed = true ∧ decode (encode i) = .ok i

/-- A word that decodes to a request is that request's only word (R77: every word is exactly one thing). -/
def Obligations.EveryRequestHasOneWord : Prop :=
  ∀ (w : Word) (i : Instr), decode w = .ok i → encode i = w

/-- R75 and R76, for a request presented to a block that has not refused one: OP 0x00 or from 0x0D up is refused as
ReservedOpcode; a defined OP with a 1 above the bits its format names is refused as ReservedBits; every other word
is a request. The named bits are those of R72's table, the low 24, 16, 0, 16, 32, 0, 32, 8, 8, 0, 0 and 8 bits of OP
0x01 to 0x0C. -/
def Obligations.ReservedWordsAreRefused : Prop :=
  ∀ (s : State) (w : Word) (rest : List Word), s.refused = none → s.requests = w :: rest →
    let op := w.toNat / 2 ^ 56
    let named := [24, 16, 0, 16, 32, 0, 32, 8, 8, 0, 0, 8].getD (op - 1) 0
    let reserved := w.toNat % 2 ^ 56 / 2 ^ named
    (op = 0 ∨ 0x0D ≤ op → step s = .refused (.refuse .reservedOpcode))
      ∧ (0 < op → op < 0x0D → reserved ≠ 0 → step s = .refused (.refuse .reservedBits))
      ∧ (0 < op → op < 0x0D → reserved = 0 → ∃ i, decode w = .ok i)

/-- The encoding examples of R83: each text assembles to its word, and each word decodes to the request written. -/
def Obligations.EncodingExamples : Prop :=
  (∀ c : Config,
    assembleText c "setpix 1, 0, 0x0F".toList = .ok [0x01000000000F0001#64]
    ∧ assembleText c "setpix 0, 0, 0x0A".toList = .ok [0x01000000000A0000#64]
    ∧ assembleText c "getpix 127, 127".toList = .ok [0x0200000000007F7F#64]
    ∧ assembleText c "clear".toList = .ok [0x0300000000000000#64]
    ∧ assembleText c "rdbyte 8191".toList = .ok [0x0400000000001FFF#64]
    ∧ assembleText c "window 0, 0, 127, 127".toList = .ok [0x050000007F7F0000#64]
    ∧ assembleText c "flush".toList = .ok [0x0600000000000000#64]
    ∧ assembleText c "flushr 3, 2, 6, 4".toList = .ok [0x0700000004060203#64]
    ∧ assembleText c "cmd 0xAF".toList = .ok [0x08000000000000AF#64]
    ∧ assembleText c "data 0x5A".toList = .ok [0x090000000000005A#64]
    ∧ assembleText c "cfglines".toList = .ok [0x0A00000000000000#64]
    ∧ assembleText c "poweron".toList = .ok [0x0B00000000000000#64]
    ∧ assembleText c "contrast 0x7F".toList = .ok [0x0C0000000000007F#64])
  ∧ decode 0x01000000000F0001#64 = .ok (.setPixel 1 0 0x0F)
  ∧ decode 0x01000000000A0000#64 = .ok (.setPixel 0 0 0x0A)
  ∧ decode 0x0200000000007F7F#64 = .ok (.getPixel 127 127)
  ∧ decode 0x0300000000000000#64 = .ok .clear
  ∧ decode 0x0400000000001FFF#64 = .ok (.readByte 8191)
  ∧ decode 0x050000007F7F0000#64 = .ok (.computeWindow 0 0 127 127)
  ∧ decode 0x0600000000000000#64 = .ok .flushAll
  ∧ decode 0x0700000004060203#64 = .ok (.flushRegion 3 2 6 4)
  ∧ decode 0x08000000000000AF#64 = .ok (.sendCommand 0xAF)
  ∧ decode 0x090000000000005A#64 = .ok (.sendData 0x5A)
  ∧ decode 0x0A00000000000000#64 = .ok .configureLines
  ∧ decode 0x0B00000000000000#64 = .ok .powerOn
  ∧ decode 0x0C0000000000007F#64 = .ok (.setContrast 0x7F)

/-- R82: what each pseudo-instruction expands to, as request words, for operands in range. `setwin` halves its x
operands and validates nothing. -/
def Obligations.PseudoInstructionsExpand : Prop :=
  (∀ (c : Config) (x y : Byte),
    (Statement.clrpix x.toNat y.toNat).assemble c = .ok [encode (.setPixel x y 0)]
    ∧ (Statement.flushpix x.toNat y.toNat).assemble c = .ok [encode (.flushRegion x y x y)])
  ∧ (∀ c : Config, Statement.init.assemble c = .ok [encode .configureLines, encode .powerOn])
  ∧ (∀ (c : Config) (xs ys xe ye : Byte),
    (Statement.setwin xs.toNat ys.toNat xe.toNat ye.toNat).assemble c =
      .ok [encode (.sendCommand c.cmdSetColumn), encode (.sendCommand (xs / 2)), encode (.sendCommand (xe / 2)),
        encode (.sendCommand c.cmdSetRow), encode (.sendCommand ys), encode (.sendCommand ye)])

/-- A step takes the request on the port, and its next state, fault or refusal is the request's on the state that
has taken it. -/
def Obligations.StepRunsTheDecodedRequest : Prop :=
  ∀ (s : State) (w : Word) (rest : List Word) (i : Instr),
    s.refused = none → s.requests = w :: rest → decode w = .ok i →
      step s = exec i { s with requests := rest }

/-- With no request on the port the block waits for the host and nothing changes. That the wait is a step that
changes nothing is the model's choice (log entry 3). -/
def Obligations.BlockWaitsForTheHost : Prop :=
  ∀ s : State, s.refused = none → s.requests = [] → step s = .next s

/-- The REFUSED mark (R17, R30, R205): it takes the reason of a refused step, a marked state has no next state and
stays marked, and a constructed block has it clear. The form is the model's choice (log entry 5): that `advance`
keeps everything but the mark (the word at the head, STATUS, the response), and that a marked state's step answers
refused with the reason it carries. -/
def Obligations.RefusedMarkIsSticky : Prop :=
  (∀ (s : State) (r : RefusalReason), step s = .refused (.refuse r) → advance s = { s with refused := some r })
  ∧ (∀ (s : State) (r : RefusalReason), s.refused = some r →
      step s = .refused (.refuse r) ∧ advance s = s)
  ∧ ∀ c : Config, c.legal = true → ∃ t, construct c = .next t ∧ t.refused = none

/-! ### Reset and configuration -/

/-- R230: what construction with a legal configuration leaves, state by state as the table lists it, and that no
step leads back to Uninitialized. -/
def Obligations.ResetLeavesTheTable : Prop :=
  ∀ c : Config, c.legal = true → ∃ t, construct c = .next t
    ∧ t.config = c
    ∧ (∀ i, t.buf.read i = 0x00)
    ∧ t.lifecycle = .uninitialized
    ∧ t.winColStart = 0x00 ∧ t.winColStop = 0x00 ∧ t.winRowStart = 0x00 ∧ t.winRowStop = 0x00
    ∧ t.status = .ok
    ∧ t.orientUndef = false
    ∧ (t.lines.cs.configured = false ∧ t.lines.wr.configured = false ∧ t.lines.rd.configured = false
      ∧ t.lines.dc.configured = false ∧ t.lines.latch.configured = false ∧ t.lines.d.configured = false)
    ∧ (t.lines.cs.level = none ∧ t.lines.wr.level = none ∧ t.lines.rd.level = none
      ∧ t.lines.dc.level = none ∧ t.lines.latch.level = none ∧ t.lines.d.level = none)
    ∧ t.trace = []
    ∧ t.refused = none
    ∧ (∀ a b : State, step a = .next b → a.lifecycle ≠ .uninitialized → b.lifecycle ≠ .uninitialized)

/-- R232 with R6, R7 and R13: a configuration builds a block exactly when its width is even and from 16 to 128, its
height from 16 to 128 and its transport the parallel one; every other is refused. -/
def Obligations.IllegalConfigurationBuildsNoBlock : Prop :=
  ∀ c : Config,
    ((16 ≤ c.width ∧ c.width ≤ 128 ∧ c.width % 2 = 0) ∧ (16 ≤ c.height ∧ c.height ≤ 128) ∧ c.transport = .parallel →
      ∃ t, construct c = .next t)
    ∧ (¬ ((16 ≤ c.width ∧ c.width ≤ 128 ∧ c.width % 2 = 0) ∧ (16 ≤ c.height ∧ c.height ≤ 128)
        ∧ c.transport = .parallel) →
      construct c = .refused .illegalConfiguration)

/-- R14: the derived sizes of every legal configuration, and the document's 128 by 128 example. -/
def Obligations.DerivedSizes : Prop :=
  (∀ c : Config, c.legal = true →
    c.halfW = c.width / 2 ∧ c.bufLen = c.width * c.height / 2
      ∧ 8 ≤ c.halfW ∧ c.halfW ≤ 64 ∧ 128 ≤ c.bufLen ∧ c.bufLen ≤ 8192
      ∧ c.halfW - 1 < 2 ^ 7 ∧ c.height - 1 < 2 ^ 7 ∧ c.bufLen - 1 < 2 ^ 13)
  ∧ ∀ c : Config, c.width = 128 → c.height = 128 → c.bufLen = 8192

/-- The invariant holds of every newly constructed block, and of `State.reset`. -/
def Obligations.ResetMeetsTheInvariant : Prop :=
  (∀ c : Config, c.legal = true → (State.ofConfig c).Inv) ∧ State.reset.Inv

/-- The invariant is kept by every step from every state that meets it. -/
def Obligations.StepKeepsTheInvariant : Prop :=
  ∀ s t : State, s.Inv → step s = .next t → t.Inv

/-- No request of a block that meets the invariant reaches a byte outside the buffer: no step faults. -/
def Obligations.NoStepFaults : Prop :=
  ∀ (s : State) (f : Fault), s.Inv → step s ≠ .fault f

/-- The parameters are immutable (R32), and the buffer length with them. -/
def Obligations.ConfigurationIsImmutable : Prop :=
  ∀ s t : State, step s = .next t → t.config = s.config ∧ t.config.bufLen = s.config.bufLen

/-! ### Every request -/

/-- R187's table, for every request, every operand and every state of a block: refused with the table's reason, or
completed. -/
def Obligations.RequestsCompleteAsTheLifecycleTableSays : Prop :=
  ∀ (s : State) (i : Instr), s.Inv →
    (∀ r, lifecycleRefusal i s.lifecycle = some r → exec i s = .refused (.refuse r))
    ∧ (lifecycleRefusal i s.lifecycle = none → ∃ t, exec i s = .next t)

/-- R200's table: the numeric codes, and, for a request that ends, each code exactly when its cause holds. -/
def Obligations.StatusCodesFollowTheirCauses : Prop :=
  (Status.ok.code = 0x00 ∧ Status.outOfBounds.code = 0x01 ∧ Status.wrongPosition.code = 0x02
    ∧ Status.unsupportedVariant.code = 0x03)
  ∧ ∀ (s t : State) (i : Instr) (code : Status), s.config.legal = true → exec i s = .next t →
      (t.status = code ↔ causeOf s.config i code)

/-- R209: a failure is precise. OUT_OF_BOUNDS and WRONG_POSITION leave everything but STATUS and the response as it
was; UNSUPPORTED_VARIANT leaves everything but those and the effects R183 lists. -/
def Obligations.FailuresArePrecise : Prop :=
  ∀ (s t : State) (i : Instr), exec i s = .next t →
    (t.status = .outOfBounds ∨ t.status = .wrongPosition →
      t = { s with status := t.status, response := t.response })
    ∧ (t.status = .unsupportedVariant →
      i = .powerOn
      ∧ t.trace = s.trace
          ++ (frame .low s.config.cmdPowerOn ++ [BusEvent.settle] ++ frame .low s.config.cmdNormalDisplay)
      ∧ t = { s with
          lifecycle := .on, orientUndef := true, lines := s.lines.applyAll (t.trace.drop s.trace.length),
          trace := t.trace, status := t.status, response := t.response })

/-- R79 and R80: a request that ends returns the response word of the state it leaves, with the data of R80's table
on success and data 0 on failure. -/
def Obligations.ResponsesFollowTheTable : Prop :=
  ∀ (s t : State) (i : Instr), exec i s = .next t →
    Reports t (if t.status = .ok then responseDataOf t i else .zero)

/-- No request reads STATUS or the last response (R34, D35): what a request does is the same whatever they hold. -/
def Obligations.StatusIsReadByNoRequest : Prop :=
  ∀ (s : State) (i : Instr) (code : Status) (r : Option Word),
    exec i { s with status := code, response := r } = exec i s

/-- R150: a request drives RD to 0 in no event, and samples no line: with other lines and another trace it does the
same and appends the same events. -/
def Obligations.BlockNeverReadsTheBus : Prop :=
  ∀ (s t : State) (i : Instr), exec i s = .next t →
    ∃ es, t.trace = s.trace ++ es ∧ BusEvent.set .rd .low ∉ es
      ∧ ∀ (l : Lines) (tr : List BusEvent),
          exec i { s with lines := l, trace := tr } = .next { t with lines := l.applyAll es, trace := tr ++ es }

/-- The trace is append-only (R28), and the lines change only by the events appended (R27), in every step. -/
def Obligations.TraceIsAppendOnly : Prop :=
  ∀ s t : State, step s = .next t → ∃ es, t.trace = s.trace ++ es ∧ t.lines = s.lines.applyAll es

/-- R22: LIFECYCLE's codes, and its only changes: 0 to 1 by CONFIGURE_LINES and 1 to 2 by POWER_ON. No request
leaves On. -/
def Obligations.LifecycleOnlyAdvances : Prop :=
  (Lifecycle.uninitialized.code = 0 ∧ Lifecycle.configuring.code = 1 ∧ Lifecycle.on.code = 2
    ∧ ∀ l : Lifecycle, l.code ≠ 3)
  ∧ (∀ c : Config, (State.ofConfig c).lifecycle = .uninitialized)
  ∧ ∀ (s t : State) (i : Instr), exec i s = .next t →
      if i = .configureLines then s.lifecycle = .uninitialized ∧ t.lifecycle = .configuring
      else if i = .powerOn then s.lifecycle = .configuring ∧ t.lifecycle = .on
      else t.lifecycle = s.lifecycle

/-- ORIENT_UNDEF is set by POWER_ON of a variant with no entry, by nothing else, and never cleared (R25). -/
def Obligations.OrientationMarkIsSticky : Prop :=
  ∀ (s t : State) (i : Instr), exec i s = .next t →
    t.orientUndef = (s.orientUndef || (decide (i = .powerOn) && s.config.variantCommands.isNone))

/-- R23: the window registers hold the result of the last successful window computation, are left by every other
request, and hold legal values. -/
def Obligations.WindowRegistersHoldTheLastWindow : Prop :=
  (∀ c : Config, (State.ofConfig c).winColStart = 0x00 ∧ (State.ofConfig c).winColStop = 0x00
    ∧ (State.ofConfig c).winRowStart = 0x00 ∧ (State.ofConfig c).winRowStop = 0x00)
  ∧ ∀ (s t : State) (i : Instr), s.Inv → exec i s = .next t →
      (∀ r w, windowRegion s.config i = some r → windowOf s.config r = .ok w →
        t.winColStart = w.colStart ∧ t.winColStop = w.colStop ∧ t.winRowStart = w.rowStart ∧ t.winRowStop = w.rowStop)
      ∧ ((∀ r w, windowRegion s.config i = some r → windowOf s.config r ≠ .ok w) →
        t.winColStart = s.winColStart ∧ t.winColStop = s.winColStop ∧ t.winRowStart = s.winRowStart
          ∧ t.winRowStop = s.winRowStop)
      ∧ t.winColStart.toNat ≤ s.config.halfW - 1 ∧ t.winColStop.toNat ≤ s.config.halfW - 1
      ∧ t.winRowStart.toNat ≤ s.config.height - 1 ∧ t.winRowStop.toNat ≤ s.config.height - 1
      ∧ t.winColStart.extractLsb' 7 1 = 0 ∧ t.winColStop.extractLsb' 7 1 = 0
      ∧ t.winRowStart.extractLsb' 7 1 = 0 ∧ t.winRowStop.extractLsb' 7 1 = 0

/-- The buffer is written only by SET_PIXEL and CLEAR (R21): every other request leaves it whole. -/
def Obligations.OnlySetPixelAndClearWriteTheBuffer : Prop :=
  ∀ (s t : State) (i : Instr), exec i s = .next t → writesBuffer i = false → t.buf = s.buf

/-- R59: a request that reads the buffer leaves every byte as it was, and, repeated in any later state of the block
in which the buffer is the same, ends with the same status and response data and appends the same events. -/
def Obligations.ReadsHaveNoSideEffect : Prop :=
  ∀ (s t s' t' : State) (i : Instr), readsBuffer i = true → exec i s = .next t →
    (∀ a, t.buf.read a = s.buf.read a)
    ∧ (s'.config = s.config → s'.buf = t.buf → exec i s' = .next t' →
      t'.status = t.status ∧ (∃ d, Reports t d ∧ Reports t' d)
        ∧ ∃ es, t.trace = s.trace ++ es ∧ t'.trace = s'.trace ++ es)

/-- Every request but POWER_ON appends at most 8 (6 + BUF_LEN) events, the count of FLUSH_ALL (R241); POWER_ON
appends 17 and 8 for each command of its variant's entry. -/
def Obligations.RequestsAppendBoundedlyManyEvents : Prop :=
  ∀ (s t : State) (i : Instr), s.Inv → exec i s = .next t →
    t.trace.length ≤ s.trace.length +
      (if i = .powerOn then 17 + 8 * (s.config.variantCommands.getD []).length else 8 * (6 + s.config.bufLen))

/-! ### The pixel buffer -/

/-- R100 and R101: SET_PIXEL in range completes, replaces one nibble of one byte by the low four bits of LEVEL, and
leaves every other byte and everything else but STATUS and the response; out of range it is rejected. -/
def Obligations.SetPixelWritesOneNibble : Prop :=
  ∀ (s : State) (x y level : Byte), s.config.legal = true → s.buf.wf = true →
    decode (wordOf 0x01 0 level y x) = .ok (.setPixel x y level)
    ∧ (x.toNat < s.config.width → y.toNat < s.config.height →
      let idx := x.toNat / 2 + y.toNat * (s.config.width / 2)
      let b := s.buf.read idx
      ∃ t, exec (.setPixel x y level) s = .next t
        ∧ t.buf.read idx =
            (if x.toNat % 2 = 1 then (b &&& 0x0F) ||| ((level &&& 0x0F) <<< 4) else (b &&& 0xF0) ||| (level &&& 0x0F))
        ∧ (∀ a, a ≠ idx → t.buf.read a = s.buf.read a)
        ∧ t.status = .ok ∧ Reports t .zero
        ∧ t = { s with buf := t.buf, status := t.status, response := t.response })
    ∧ (s.config.width ≤ x.toNat ∨ s.config.height ≤ y.toNat →
      ∃ t, exec (.setPixel x y level) s = .next t ∧ Reports t .zero
        ∧ t = { s with status := .outOfBounds, response := t.response })

/-- R102: GET_PIXEL in range completes and returns the pixel's nibble; out of range it is rejected; nothing changes
but STATUS and the response. -/
def Obligations.GetPixelReturnsTheNibble : Prop :=
  ∀ (s : State) (x y : Byte), s.config.legal = true →
    decode (wordOf 0x02 0 0 y x) = .ok (.getPixel x y)
    ∧ (x.toNat < s.config.width → y.toNat < s.config.height →
      let b := s.buf.read (x.toNat / 2 + y.toNat * (s.config.width / 2))
      let level : BitVec 4 := if x.toNat % 2 = 1 then b.extractLsb' 4 4 else b.extractLsb' 0 4
      ∃ t, exec (.getPixel x y) s = .next t ∧ Reports t ⟨level.setWidth 8, 0, 0, 0⟩
        ∧ t = { s with status := .ok, response := t.response })
    ∧ (s.config.width ≤ x.toNat ∨ s.config.height ≤ y.toNat →
      ∃ t, exec (.getPixel x y) s = .next t ∧ Reports t .zero
        ∧ t = { s with status := .outOfBounds, response := t.response })

/-- R103, all four laws: (a) a pixel set is the pixel read; (b) every other pixel reads as before; (c) a rejected
SET_PIXEL changes no byte and repeating it changes nothing; (d) SET_PIXELs of different pixels commute. -/
def Obligations.PixelLaws : Prop :=
  ∀ (s : State) (x y l : Byte), s.config.legal = true → s.buf.wf = true → l.toNat ≤ 15 →
    (x.toNat < s.config.width → y.toNat < s.config.height →
      (∃ t u, exec (.setPixel x y l) s = .next t ∧ exec (.getPixel x y) t = .next u ∧ Reports u ⟨l, 0, 0, 0⟩)
      ∧ (∀ x' y' : Byte, x'.toNat < s.config.width → y'.toNat < s.config.height → (x', y') ≠ (x, y) →
        ∃ t, exec (.setPixel x y l) s = .next t ∧ t.pixel x' y' = s.pixel x' y')
      ∧ (∀ x' y' l' : Byte, x'.toNat < s.config.width → y'.toNat < s.config.height → (x', y') ≠ (x, y) →
        ∃ t u v, exec (.setPixel x y l) s = .next t ∧ exec (.setPixel x' y' l') t = .next u
          ∧ exec (.setPixel x' y' l') s = .next v ∧ exec (.setPixel x y l) v = .next u))
    ∧ (s.config.width ≤ x.toNat ∨ s.config.height ≤ y.toNat →
      ∃ t, exec (.setPixel x y l) s = .next t ∧ t.status = .outOfBounds ∧ t.buf = s.buf
        ∧ exec (.setPixel x y l) t = .next t)

/-- R104: CLEAR completes, every byte and so every pixel reads 0, no bus event is emitted, and nothing else changes
but STATUS and the response. -/
def Obligations.ClearZeroesEveryPixel : Prop :=
  decode 0x0300000000000000#64 = .ok .clear ∧ ∀ s : State, ∃ t, exec .clear s = .next t
    ∧ (∀ a, t.buf.read a = 0x00)
    ∧ (∀ x y : Byte, s.config.legal = true → x.toNat < s.config.width → y.toNat < s.config.height →
      ∃ u, exec (.getPixel x y) t = .next u ∧ Reports u ⟨0, 0, 0, 0⟩)
    ∧ t.trace = s.trace ∧ Reports t .zero
    ∧ t = { s with buf := t.buf, status := .ok, response := t.response }

/-- CLEAR is the loop of R104, in whatever order the bytes are written (R105). -/
def Obligations.ClearIsTheLoopInAnyOrder : Prop :=
  ∀ (s : State) (order : List Nat), s.buf.wf = true → (∀ cell ∈ s.buf, cell.1 < s.config.bufLen) →
    order.Perm (List.range s.config.bufLen) →
      exec .clear s = done .zero { s with buf := order.foldl (fun m i => Memory.write i 0x00 m) s.buf }

/-- R106: READ_BYTE below BUF_LEN completes and returns the byte; from BUF_LEN up it is rejected; nothing changes
but STATUS and the response. -/
def Obligations.ReadByteReturnsTheByte : Prop :=
  ∀ (s : State) (idx : Index),
    decode (wordOf 0x04 0 0 (idx.extractLsb' 8 8) (idx.extractLsb' 0 8)) = .ok (.readByte idx)
    ∧ (idx.toNat < s.config.width * s.config.height / 2 →
      ∃ t, exec (.readByte idx) s = .next t ∧ Reports t ⟨s.buf.read idx.toNat, 0, 0, 0⟩
        ∧ t = { s with status := .ok, response := t.response })
    ∧ (s.config.width * s.config.height / 2 ≤ idx.toNat →
      ∃ t, exec (.readByte idx) s = .next t ∧ Reports t .zero
        ∧ t = { s with status := .outOfBounds, response := t.response })

/-- R51, R52 and R53: the place of a pixel, that the places are a bijection between the grid and the nibbles of the
buffer, with its inverse, and that a write to one pixel changes no other. -/
def Obligations.PixelMappingIsABijection : Prop :=
  ∀ c : Config, c.legal = true →
    (∀ x y : Byte, pixelIndex c x y = x.toNat / 2 + y.toNat * (c.width / 2))
    ∧ (∀ x b : Byte, nibbleOf x b = if x.toNat % 2 = 0 then b.extractLsb' 0 4 else b.extractLsb' 4 4)
    ∧ (∀ x y : Byte, x.toNat < c.width → y.toNat < c.height →
      pixelIndex c x y < c.bufLen
        ∧ y.toNat = pixelIndex c x y / c.halfW ∧ x.toNat = 2 * (pixelIndex c x y % c.halfW) + x.toNat % 2)
    ∧ (∀ i n : Nat, i < c.bufLen → n < 2 → ∃ x y : Byte,
      x.toNat = 2 * (i % c.halfW) + n ∧ y.toNat = i / c.halfW ∧ x.toNat < c.width ∧ y.toNat < c.height
        ∧ pixelIndex c x y = i ∧ x.toNat % 2 = n)
    ∧ (∀ (s : State) (x y x' y' level : Byte), s.config = c → s.buf.wf = true →
      x.toNat < c.width → y.toNat < c.height → x'.toNat < c.width → y'.toNat < c.height → (x', y') ≠ (x, y) →
        ∃ t, exec (.setPixel x y level) s = .next t ∧ t.pixel x' y' = s.pixel x' y')

/-! ### The windowed addressing engine -/

/-- R120, R122 and R123: COMPUTE_WINDOW of a valid region completes, latches and returns the halved columns and the
rows; of a region out of range on an axis, or reversed, it fails with WRONG_POSITION and the registers keep their
values. -/
def Obligations.ComputeWindowLatchesTheWindow : Prop :=
  ∀ (s : State) (xs ys xe ye : Byte),
    let valid := (xs.toNat < s.config.width ∧ xe.toNat < s.config.width
      ∧ ys.toNat < s.config.height ∧ ye.toNat < s.config.height) ∧ xs.toNat ≤ xe.toNat ∧ ys.toNat ≤ ye.toNat
    decode (wordOf 0x05 ye xe ys xs) = .ok (.computeWindow xs ys xe ye)
    ∧ (valid →
      ∃ t, exec (.computeWindow xs ys xe ye) s = .next t
        ∧ t.winColStart.toNat = xs.toNat / 2 ∧ t.winColStop.toNat = xe.toNat / 2
        ∧ t.winRowStart = ys ∧ t.winRowStop = ye
        ∧ Reports t ⟨t.winColStart, t.winColStop, t.winRowStart, t.winRowStop⟩
        ∧ t = { s with
            winColStart := t.winColStart, winColStop := t.winColStop, winRowStart := t.winRowStart,
            winRowStop := t.winRowStop, status := .ok, response := t.response })
    ∧ (¬ valid →
      ∃ t, exec (.computeWindow xs ys xe ye) s = .next t ∧ Reports t .zero
        ∧ t = { s with status := .wrongPosition, response := t.response })

/-- R121: the range of a successful window. -/
def Obligations.SuccessfulWindowsAreInRange : Prop :=
  ∀ (c : Config) (r : Region) (w : Window), c.legal = true → windowOf c r = .ok w →
    w.colStart.toNat ≤ w.colStop.toNat ∧ w.colStop.toNat ≤ c.halfW - 1 ∧ c.halfW - 1 ≤ 63
      ∧ w.rowStart.toNat ≤ w.rowStop.toNat ∧ w.rowStop.toNat ≤ c.height - 1 ∧ c.height - 1 ≤ 127
      ∧ w.colStart.extractLsb' 7 1 = 0 ∧ w.colStop.extractLsb' 7 1 = 0
      ∧ w.rowStart.extractLsb' 7 1 = 0 ∧ w.rowStop.extractLsb' 7 1 = 0

/-- R126: the window of the full region of every legal configuration. -/
def Obligations.FullRegionWindow : Prop :=
  ∀ (c : Config) (xe ye : Byte), c.legal = true → xe.toNat = c.width - 1 → ye.toNat = c.height - 1 →
    ∃ w, windowOf c ⟨0, 0, xe, ye⟩ = .ok w
      ∧ w.colStart = 0 ∧ w.colStop.toNat = c.width / 2 - 1 ∧ w.rowStart = 0 ∧ w.rowStop.toNat = c.height - 1

/-- The pixels of a row a window covers (R127): those of the region, the one left of it when XS is odd, and the one
right of it when XE is even. -/
def Obligations.WindowPixelCoverage : Prop :=
  ∀ (c : Config) (xs ys xe ye : Byte) (w : Window) (x : Nat), c.legal = true → windowOf c ⟨xs, ys, xe, ye⟩ = .ok w →
    ((w.colStart.toNat ≤ x / 2 ∧ x / 2 ≤ w.colStop.toNat) ↔
      (2 * w.colStart.toNat ≤ x ∧ x ≤ 2 * w.colStop.toNat + 1))
    ∧ ((w.colStart.toNat ≤ x / 2 ∧ x / 2 ≤ w.colStop.toNat) ↔
      (xs.toNat ≤ x ∧ x ≤ xe.toNat) ∨ (xs.toNat % 2 = 1 ∧ x + 1 = xs.toNat) ∨ (xe.toNat % 2 = 0 ∧ x = xe.toNat + 1))
    ∧ (w.colStart.toNat ≤ x / 2 ∧ x / 2 ≤ w.colStop.toNat → x < c.width)

/-! ### The protocol framer -/

/-- R142: SEND_COMMAND is refused before CONFIGURE_LINES; after it, it completes for every byte, appends the eight
events in order with DC = 0, and changes nothing but the line levels, the trace, STATUS and the response. -/
def Obligations.SendCommandFramesEightEvents : Prop :=
  ∀ (s : State) (b : Byte),
    decode (wordOf 0x08 0 0 0 b) = .ok (.sendCommand b)
    ∧ (s.lifecycle = .uninitialized → exec (.sendCommand b) s = .refused (.refuse .linesNotConfigured))
    ∧ (s.lifecycle ≠ .uninitialized → ∃ t, exec (.sendCommand b) s = .next t
      ∧ t.trace = s.trace ++ ([.set .rd .high, .set .cs .low, .set .wr .high, .set .dc .low, .set .wr .low, .setD b,
          .set .wr .high, .set .cs .high] : List BusEvent)
      ∧ (t.lines.cs.level = some .high ∧ t.lines.wr.level = some .high ∧ t.lines.rd.level = some .high
        ∧ t.lines.dc.level = some .low ∧ t.lines.d.level = some b)
      ∧ t.lines = { s.lines with
          cs := { s.lines.cs with level := t.lines.cs.level }, wr := { s.lines.wr with level := t.lines.wr.level },
          rd := { s.lines.rd with level := t.lines.rd.level }, dc := { s.lines.dc with level := t.lines.dc.level },
          d := { s.lines.d with level := t.lines.d.level } }
      ∧ Reports t .zero
      ∧ t = { s with lines := t.lines, trace := t.trace, status := .ok, response := t.response })

/-- R143: SEND_DATA is SEND_COMMAND with DC = 1. -/
def Obligations.SendDataFramesEightEvents : Prop :=
  ∀ (s : State) (b : Byte),
    decode (wordOf 0x09 0 0 0 b) = .ok (.sendData b)
    ∧ (s.lifecycle = .uninitialized → exec (.sendData b) s = .refused (.refuse .linesNotConfigured))
    ∧ (s.lifecycle ≠ .uninitialized → ∃ t, exec (.sendData b) s = .next t
      ∧ t.trace = s.trace ++ ([.set .rd .high, .set .cs .low, .set .wr .high, .set .dc .high, .set .wr .low, .setD b,
          .set .wr .high, .set .cs .high] : List BusEvent)
      ∧ (t.lines.cs.level = some .high ∧ t.lines.wr.level = some .high ∧ t.lines.rd.level = some .high
        ∧ t.lines.dc.level = some .high ∧ t.lines.d.level = some b)
      ∧ t.lines = { s.lines with
          cs := { s.lines.cs with level := t.lines.cs.level }, wr := { s.lines.wr with level := t.lines.wr.level },
          rd := { s.lines.rd with level := t.lines.rd.level }, dc := { s.lines.dc with level := t.lines.dc.level },
          d := { s.lines.d with level := t.lines.d.level } }
      ∧ Reports t .zero
      ∧ t = { s with lines := t.lines, trace := t.trace, status := .ok, response := t.response })

/-- R145 and R146, for every transaction of every request: it starts with CS, WR and RD at 1; (a) DC has its final
level before WR falls and does not move after; (b) its changes begin with the fall of CS and end with its rise, and
none between is of CS; (c) D holds the byte at the rising edge of WR, and keeps it until D is written again; it
leaves CS, WR and RD at 1, DC and D at its own level and byte, and LATCH unchanged. -/
def Obligations.TransactionsKeepTheOrdering : Prop :=
  ∀ (s t : State) (i : Instr) (pre post : List BusEvent) (dc : Level) (b : Byte), s.Inv → exec i s = .next t →
    t.trace = s.trace ++ (pre ++ frame dc b ++ post) →
    let l := s.lines.applyAll pre
    (l.cs.level = some .high ∧ l.wr.level = some .high ∧ l.rd.level = some .high)
    ∧ (∀ before after, frame dc b = before ++ BusEvent.set .wr .low :: after →
      (l.applyAll before).dc.level = some dc ∧ ∀ v, BusEvent.set .dc v ∉ after)
    ∧ (∃ mid, changesFrom l (frame dc b) = .set .cs .low :: (mid ++ [.set .cs .high])
      ∧ ∀ e ∈ mid, isChipSelect e = false)
    ∧ (∀ before after, frame dc b = before ++ BusEvent.set .wr .high :: after →
      (l.applyAll before).wr.level = some .low → (l.applyAll before).d.level = some b)
    ∧ (let l' := l.applyAll (frame dc b)
      l'.cs.level = some .high ∧ l'.wr.level = some .high ∧ l'.rd.level = some .high ∧ l'.dc.level = some dc
        ∧ l'.d.level = some b ∧ l'.latch = l.latch)
    ∧ (∀ es, (∀ b', BusEvent.setD b' ∉ es) → (l.applyAll (frame dc b ++ es)).d.level = some b)

/-- Every event of every request but CONFIGURE_LINES is in order on the bus, whatever the host does (R145, R235): a
line other than CS changes only with CS at 0, DC only while WR is 1, D only while WR is 0, and the settle wait comes
with CS at 1. -/
def Obligations.EveryRequestObeysTheBusOrder : Prop :=
  ∀ (s t : State) (i : Instr) (es : List BusEvent), s.Inv → exec i s = .next t → i ≠ .configureLines →
    t.trace = s.trace ++ es → busInOrder s.lines es = true

/-- R148: each transaction makes the controller latch exactly its own byte, and the events outside transactions,
CONFIGURE_LINES's and the settle wait, latch none. -/
def Obligations.TransactionLatchesItsByte : Prop :=
  (∀ (c : Config) (l : Lines) (dc : Level) (b : Byte), LinesIdle c l →
    latchedFrom l (frame dc b) = [⟨if dc = .low then .command else .data, some b⟩]
      ∧ LinesIdle c (l.applyAll (frame dc b)))
  ∧ (∀ c : Config, latchedFrom .undriven (configureEvents c) = [])
  ∧ ∀ l : Lines, latchedFrom l [.settle] = []

/-! ### The transfer engine -/

/-- R161 and R164: FLUSH_REGION is refused before CONFIGURE_LINES; an invalid region fails before any bus event; a
valid one completes: it latches the window, sends the six addressing commands, then the bytes of the window row by
row and column by column as data, and changes nothing else but the line levels, STATUS and the response. -/
def Obligations.FlushRegionStreamsTheWindow : Prop :=
  ∀ (s : State) (xs ys xe ye : Byte), s.config.legal = true →
    let valid := (xs.toNat < s.config.width ∧ xe.toNat < s.config.width
      ∧ ys.toNat < s.config.height ∧ ye.toNat < s.config.height) ∧ xs.toNat ≤ xe.toNat ∧ ys.toNat ≤ ye.toNat
    decode (wordOf 0x07 ye xe ys xs) = .ok (.flushRegion xs ys xe ye)
    ∧ (s.lifecycle = .uninitialized → exec (.flushRegion xs ys xe ye) s = .refused (.refuse .linesNotConfigured))
    ∧ (s.lifecycle ≠ .uninitialized → ¬ valid →
      ∃ t, exec (.flushRegion xs ys xe ye) s = .next t ∧ Reports t .zero
        ∧ t = { s with status := .wrongPosition, response := t.response })
    ∧ (s.lifecycle ≠ .uninitialized → valid →
      let indices := (List.range' ys.toNat (ye.toNat - ys.toNat + 1)).flatMap fun row =>
        (List.range' (xs.toNat / 2) (xe.toNat / 2 - xs.toNat / 2 + 1)).map fun col => col + row * (s.config.width / 2)
      ∃ t, exec (.flushRegion xs ys xe ye) s = .next t
        ∧ t.winColStart.toNat = xs.toNat / 2 ∧ t.winColStop.toNat = xe.toNat / 2
        ∧ t.winRowStart = ys ∧ t.winRowStop = ye
        ∧ t.trace = s.trace
            ++ ([s.config.cmdSetColumn, xs / 2, xe / 2, s.config.cmdSetRow, ys, ye].flatMap (frame .low)
              ++ indices.flatMap fun a => frame .high (s.buf.read a))
        ∧ Reports t ⟨t.winColStart, t.winColStop, t.winRowStart, t.winRowStop⟩
        ∧ t = { s with
            winColStart := t.winColStart, winColStop := t.winColStop, winRowStart := t.winRowStart,
            winRowStop := t.winRowStop, lines := t.lines, trace := t.trace, status := .ok, response := t.response })

/-- R160: FLUSH_ALL is refused before CONFIGURE_LINES; after it, it completes: the full window, its six addressing
commands, then every buffer byte in index order as data. -/
def Obligations.FlushAllStreamsTheBuffer : Prop :=
  ∀ s : State, s.config.legal = true →
    decode 0x0600000000000000#64 = .ok .flushAll
    ∧ (s.lifecycle = .uninitialized → exec .flushAll s = .refused (.refuse .linesNotConfigured))
    ∧ (s.lifecycle ≠ .uninitialized →
      ∃ t, exec .flushAll s = .next t
        ∧ t.winColStart = 0 ∧ t.winColStop.toNat = s.config.width / 2 - 1
        ∧ t.winRowStart = 0 ∧ t.winRowStop.toNat = s.config.height - 1
        ∧ t.trace = s.trace
            ++ ([s.config.cmdSetColumn, 0, t.winColStop, s.config.cmdSetRow, 0, t.winRowStop].flatMap (frame .low)
              ++ (List.range (s.config.width * s.config.height / 2)).flatMap fun a => frame .high (s.buf.read a))
        ∧ Reports t ⟨t.winColStart, t.winColStop, t.winRowStart, t.winRowStop⟩
        ∧ t = { s with
            winColStart := t.winColStart, winColStop := t.winColStop, winRowStart := t.winRowStart,
            winRowStop := t.winRowStop, lines := t.lines, trace := t.trace, status := .ok, response := t.response })

/-- R163: FLUSH_ALL and FLUSH_REGION of the full region are the same, in every outcome and every field. -/
def Obligations.FlushAllIsTheFullRegionFlush : Prop :=
  ∀ (s : State) (xe ye : Byte), s.config.legal = true →
    xe.toNat = s.config.width - 1 → ye.toNat = s.config.height - 1 →
      exec .flushAll s = exec (.flushRegion 0 0 xe ye) s

/-- R162: the transaction counts of the flushes, and eight events to each transaction. -/
def Obligations.FlushTransactionCounts : Prop :=
  ∀ (s t : State) (es : List BusEvent), s.Inv → t.trace = s.trace ++ es →
    (exec .flushAll s = .next t →
      transactionCount s.lines es = 6 + s.config.bufLen ∧ es.length = 8 * (6 + s.config.bufLen))
    ∧ (∀ xs ys xe ye : Byte, exec (.flushRegion xs ys xe ye) s = .next t →
      if t.status = .ok then
        transactionCount s.lines es
            = 6 + (ye.toNat - ys.toNat + 1) * (xe.toNat / 2 - xs.toNat / 2 + 1)
          ∧ es.length = 8 * transactionCount s.lines es
      else transactionCount s.lines es = 0 ∧ es = [])

/-- What the controller latches of a FLUSH_REGION that succeeds (R147, R148, R161): the six addressing commands,
then the window's bytes as data, and nothing else. -/
def Obligations.FlushRegionReachesTheController : Prop :=
  ∀ (s t : State) (xs ys xe ye : Byte), s.Inv → exec (.flushRegion xs ys xe ye) s = .next t → t.status = .ok →
    latched t.trace = latched s.trace
      ++ [s.config.cmdSetColumn, xs / 2, xe / 2, s.config.cmdSetRow, ys, ye].map (fun b => ⟨.command, some b⟩)
      ++ ((List.range' ys.toNat (ye.toNat - ys.toNat + 1)).flatMap fun row =>
        (List.range' (xs.toNat / 2) (xe.toNat / 2 - xs.toNat / 2 + 1)).map fun col =>
          ⟨.data, some (s.buf.read (col + row * (s.config.width / 2)))⟩)

/-- The order of a flush's stream (R161, R167): byte k is that of column colStart + k mod n and row rowStart + k /
n. -/
def Obligations.StreamOrderIsRowByRow : Prop :=
  ∀ (c : Config) (r : Region) (w : Window) (k : Nat), windowOf c r = .ok w → c.legal = true →
    let n := w.colStop.toNat - w.colStart.toNat + 1
    let m := w.rowStop.toNat - w.rowStart.toNat + 1
    (windowIndices c w).length = m * n
    ∧ (k < m * n →
      (windowIndices c w)[k]? = some ((w.colStart.toNat + k % n) + (w.rowStart.toNat + k / n) * (c.width / 2))
        ∧ w.rowStart.toNat + k / n ≤ w.rowStop.toNat ∧ w.colStart.toNat + k % n ≤ w.colStop.toNat)

/-- A flush sends what the latest writes left (R62): after SET_PIXEL and a FLUSH_REGION of that pixel, the last byte
the controller latched is data and holds the level in the pixel's nibble. -/
def Obligations.WrittenPixelReachesTheController : Prop :=
  ∀ (s : State) (x y level : Byte), s.Inv → s.lifecycle ≠ .uninitialized →
    x.toNat < s.config.width → y.toNat < s.config.height →
      ∃ t u b, exec (.setPixel x y level) s = .next t ∧ exec (.flushRegion x y x y) t = .next u
        ∧ (latched u.trace).getLast? = some ⟨.data, some b⟩
        ∧ nibbleOf x b = level.extractLsb' 0 4

/-! ### The device lifecycle -/

/-- R180, R181 and R182: CONFIGURE_LINES in Uninitialized completes: the twelve events in order, every line an
output at its idle level, LIFECYCLE Configuring, no byte latched, and nothing else changed but STATUS and the
response; in Configuring and On it is refused. -/
def Obligations.ConfigureLinesSetsIdleLevels : Prop :=
  ∀ s : State, s.Inv →
    decode 0x0A00000000000000#64 = .ok .configureLines
    ∧ (s.lifecycle ≠ .uninitialized → exec .configureLines s = .refused (.refuse .alreadyConfigured))
    ∧ (s.lifecycle = .uninitialized → ∃ t, exec .configureLines s = .next t
      ∧ t.trace = s.trace ++
          ([.config .cs, .set .cs .high, .config .wr, .set .wr .high, .config .rd, .set .rd .high,
            .config .dc, .set .dc s.config.dcIdle, .config .latch, .set .latch s.config.latchIdle,
            .config .d, .setD s.config.dIdle] : List BusEvent)
      ∧ t.lines = {
          cs := ⟨true, some .high⟩, wr := ⟨true, some .high⟩, rd := ⟨true, some .high⟩,
          dc := ⟨true, some s.config.dcIdle⟩, latch := ⟨true, some s.config.latchIdle⟩,
          d := ⟨true, some s.config.dIdle⟩ }
      ∧ latched t.trace = []
      ∧ Reports t .zero
      ∧ t = { s with
          lifecycle := .configuring, lines := t.lines, trace := t.trace, status := .ok, response := t.response })

/-- POWER_ON (R183) and its lookup (R184). The lookup finds no commands exactly when no entry has the key VARIANT,
and otherwise those of the first entry with it: in the spec's finite map a key has one entry, and that the first
counts where a list repeats a key is the model's choice (log entry 10). POWER_ON is refused in Uninitialized and in
On. In Configuring it completes: the power-on command, the settle wait, the normal-display command, then the
commands of the variant's entry in order, and LIFECYCLE is On; a variant with no entry gets the same without
commands of its own, UNSUPPORTED_VARIANT and ORIENT_UNDEF. -/
def Obligations.PowerOnRunsTheSequence : Prop :=
  (∀ c : Config, (c.variantCommands = none ↔ ∀ e ∈ c.variantTable, e.1 ≠ c.variant)
    ∧ ∀ before after cmds, c.variantTable = before ++ (c.variant, cmds) :: after → (∀ e ∈ before, e.1 ≠ c.variant) →
      c.variantCommands = some cmds)
  ∧ ∀ s : State,
    decode 0x0B00000000000000#64 = .ok .powerOn
    ∧ (s.lifecycle = .uninitialized → exec .powerOn s = .refused (.refuse .linesNotConfigured))
    ∧ (s.lifecycle = .on → exec .powerOn s = .refused (.refuse .alreadyOn))
    ∧ (s.lifecycle = .configuring → ∃ t, exec .powerOn s = .next t
      ∧ t.trace = s.trace ++ (frame .low s.config.cmdPowerOn ++ [BusEvent.settle]
          ++ frame .low s.config.cmdNormalDisplay ++ (s.config.variantCommands.getD []).flatMap (frame .low))
      ∧ t.lines = s.lines.applyAll (frame .low s.config.cmdPowerOn ++ [BusEvent.settle]
          ++ frame .low s.config.cmdNormalDisplay ++ (s.config.variantCommands.getD []).flatMap (frame .low))
      ∧ t.status = (if s.config.variantCommands = none then .unsupportedVariant else .ok)
      ∧ t.orientUndef = (if s.config.variantCommands = none then true else s.orientUndef)
      ∧ Reports t .zero
      ∧ t = { s with
          lifecycle := .on, orientUndef := t.orientUndef, lines := t.lines, trace := t.trace, status := t.status,
          response := t.response })

/-- What the controller latches of POWER_ON (R147, R183): its commands in order, each as a command. -/
def Obligations.PowerOnReachesTheController : Prop :=
  ∀ (s t : State), s.Inv → exec .powerOn s = .next t →
    latched t.trace = latched s.trace
      ++ (s.config.cmdPowerOn :: s.config.cmdNormalDisplay :: s.config.variantCommands.getD []).map
        fun b => ⟨.command, some b⟩

/-- R186: SET_CONTRAST is refused before CONFIGURE_LINES; after it, it completes for every value: the contrast
command, then the value unchanged, both in command mode, and the value is stored nowhere. -/
def Obligations.SetContrastSendsCommandAndValue : Prop :=
  ∀ (s : State) (v : Byte),
    decode (wordOf 0x0C 0 0 0 v) = .ok (.setContrast v)
    ∧ (s.lifecycle = .uninitialized → exec (.setContrast v) s = .refused (.refuse .linesNotConfigured))
    ∧ (s.lifecycle ≠ .uninitialized → ∃ t, exec (.setContrast v) s = .next t
      ∧ t.trace = s.trace ++ (frame .low s.config.cmdContrast ++ frame .low v)
      ∧ t.lines = s.lines.applyAll (frame .low s.config.cmdContrast ++ frame .low v)
      ∧ Reports t .zero
      ∧ t = { s with lines := t.lines, trace := t.trace, status := .ok, response := t.response })
end

