-- ==== Sys2Proof/Laws/Memory.lean ====
section
/-! SUPPORT. The laws of the buffer: read after write, the canonical form kept, and equal buffers are equal lists. -/

namespace Sys2Proof.Machine

@[simp] theorem Memory.read_nil (i : Nat) : Memory.read i [] = Memory.unlisted := rfl

@[simp] theorem Memory.wf_nil : Memory.wf [] = true := rfl

theorem Memory.read_cons (i j : Nat) (b : Byte) (m : Memory) :
    Memory.read i ((j, b) :: m) = if j = i then b else Memory.read i m := rfl

theorem Memory.wfFrom_cons (lo j : Nat) (b : Byte) (m : Memory) :
    Memory.wfFrom lo ((j, b) :: m) = true ↔ lo ≤ j ∧ b ≠ Memory.unlisted ∧ Memory.wfFrom (j + 1) m = true := by
  simp [Memory.wfFrom, and_assoc]

theorem Memory.wfFrom_mono {lo lo' : Nat} (h : lo' ≤ lo) {m : Memory} (hm : Memory.wfFrom lo m = true) :
    Memory.wfFrom lo' m = true := by
  cases m with
  | nil => rfl
  | cons cell m =>
    rw [Memory.wfFrom_cons] at hm ⊢
    exact ⟨h.trans hm.1, hm.2⟩

/-- Below its first index a canonical list reads as unlisted. -/
theorem Memory.read_of_lt {lo i : Nat} (h : i < lo) {m : Memory} (hm : Memory.wfFrom lo m = true) :
    Memory.read i m = Memory.unlisted := by
  induction m generalizing lo with
  | nil => rfl
  | cons cell m ih =>
    obtain ⟨hj, -, hm⟩ := (Memory.wfFrom_cons ..).1 hm
    rw [Memory.read_cons, if_neg (by omega)]
    exact ih (by omega) hm

theorem Memory.read_put_self (i : Nat) (v : Byte) {m : Memory} (hm : Memory.wfFrom (i + 1) m = true) :
    Memory.read i (Memory.put i v m) = v := by
  unfold Memory.put
  split
  · rename_i h
    rw [h, Memory.read_of_lt (Nat.lt_succ_self i) hm]
  · simp [Memory.read_cons]

theorem Memory.read_put_of_ne {i a : Nat} (h : a ≠ i) (v : Byte) (m : Memory) :
    Memory.read a (Memory.put i v m) = Memory.read a m := by
  unfold Memory.put
  split
  · rfl
  · rw [Memory.read_cons, if_neg (Ne.symm h)]

theorem Memory.wfFrom_put {lo i : Nat} (h : lo ≤ i) (v : Byte) {m : Memory} (hm : Memory.wfFrom (i + 1) m = true) :
    Memory.wfFrom lo (Memory.put i v m) = true := by
  unfold Memory.put
  split
  · exact Memory.wfFrom_mono (by omega) hm
  · exact (Memory.wfFrom_cons ..).2 ⟨h, ‹_›, hm⟩

/-- A write keeps the canonical form. -/
theorem Memory.wfFrom_write {lo i : Nat} (h : lo ≤ i) (v : Byte) {m : Memory} (hm : Memory.wfFrom lo m = true) :
    Memory.wfFrom lo (Memory.write i v m) = true := by
  induction m generalizing lo with
  | nil => exact Memory.wfFrom_put h v rfl
  | cons cell m ih =>
    obtain ⟨j, b⟩ := cell
    obtain ⟨hj, hb, hm⟩ := (Memory.wfFrom_cons ..).1 hm
    unfold Memory.write
    split
    · exact (Memory.wfFrom_cons ..).2 ⟨hj, hb, ih (by omega) hm⟩
    · split
      · subst j; exact Memory.wfFrom_put h v hm
      · exact Memory.wfFrom_put h v ((Memory.wfFrom_cons ..).2 ⟨by omega, hb, hm⟩)

theorem Memory.wf_write (i : Nat) (v : Byte) {m : Memory} (hm : Memory.wf m = true) :
    Memory.wf (Memory.write i v m) = true :=
  Memory.wfFrom_write (Nat.zero_le i) v hm

/-- A write leaves every other byte alone. -/
theorem Memory.read_write_of_ne {i a : Nat} (h : a ≠ i) (v : Byte) (m : Memory) :
    Memory.read a (Memory.write i v m) = Memory.read a m := by
  induction m with
  | nil => exact Memory.read_put_of_ne h v []
  | cons cell m ih =>
    obtain ⟨j, b⟩ := cell
    unfold Memory.write
    split
    · simp only [Memory.read_cons, ih]
    · split
      · subst j
        rw [Memory.read_put_of_ne h, Memory.read_cons, if_neg (Ne.symm h)]
      · rw [Memory.read_put_of_ne h]

/-- A read after a write of the same byte gives the value written. -/
theorem Memory.read_write_self (i : Nat) (v : Byte) {lo : Nat} {m : Memory} (hm : Memory.wfFrom lo m = true) :
    Memory.read i (Memory.write i v m) = v := by
  induction m generalizing lo with
  | nil => exact Memory.read_put_self i v rfl
  | cons cell m ih =>
    obtain ⟨j, b⟩ := cell
    obtain ⟨hj, hb, hm⟩ := (Memory.wfFrom_cons ..).1 hm
    unfold Memory.write
    split
    · rw [Memory.read_cons, if_neg (by omega), ih hm]
    · split
      · subst j; exact Memory.read_put_self i v hm
      · exact Memory.read_put_self i v ((Memory.wfFrom_cons ..).2 ⟨by omega, hb, hm⟩)

theorem Memory.read_write {m : Memory} (hm : Memory.wf m = true) (i a : Nat) (v : Byte) :
    Memory.read a (Memory.write i v m) = if a = i then v else Memory.read a m := by
  split
  · subst a; exact Memory.read_write_self i v hm
  · exact Memory.read_write_of_ne ‹_› v m

/-- Two canonical buffers with the same bytes are the same list. -/
theorem Memory.ext_of_wfFrom {lo : Nat} {m m' : Memory} (hm : Memory.wfFrom lo m = true)
    (hm' : Memory.wfFrom lo m' = true) (h : ∀ i, Memory.read i m = Memory.read i m') : m = m' := by
  induction m generalizing lo m' with
  | nil =>
    cases m' with
    | nil => rfl
    | cons cell m' =>
      obtain ⟨j, b⟩ := cell
      have hb := ((Memory.wfFrom_cons ..).1 hm').2.1
      have hj := h j
      simp [Memory.read_cons] at hj
      exact absurd hj.symm hb
  | cons cell m ih =>
    obtain ⟨j, b⟩ := cell
    obtain ⟨hj, hb, hm⟩ := (Memory.wfFrom_cons ..).1 hm
    have hjb : Memory.read j ((j, b) :: m) = b := by simp [Memory.read_cons]
    cases m' with
    | nil => exact absurd (hjb ▸ h j) hb
    | cons cell' m' =>
      obtain ⟨k, c⟩ := cell'
      obtain ⟨hk, hc, htail⟩ := (Memory.wfFrom_cons ..).1 hm'
      have hkc : Memory.read k ((k, c) :: m') = c := by simp [Memory.read_cons]
      have hjk : j = k := by
        rcases Nat.lt_trichotomy j k with hlt | heq | hlt
        · refine absurd ?_ hb
          rw [← hjb, h j]
          exact Memory.read_of_lt hlt ((Memory.wfFrom_cons ..).2 ⟨le_refl k, hc, htail⟩)
        · exact heq
        · refine absurd ?_ hc
          rw [← hkc, ← h k]
          exact Memory.read_of_lt hlt ((Memory.wfFrom_cons ..).2 ⟨le_refl j, hb, hm⟩)
      subst hjk
      have hbc : b = c := by rw [← hjb, h j, hkc]
      subst hbc
      congr 1
      refine ih hm htail fun i => ?_
      rcases Nat.lt_or_ge j i with hi | hi
      · simpa [Memory.read_cons, Nat.ne_of_lt hi] using h i
      · rw [Memory.read_of_lt (Nat.lt_succ_of_le hi) hm, Memory.read_of_lt (Nat.lt_succ_of_le hi) htail]

theorem Memory.ext_of_wf {m m' : Memory} (hm : Memory.wf m = true) (hm' : Memory.wf m' = true)
    (h : ∀ i, Memory.read i m = Memory.read i m') : m = m' :=
  Memory.ext_of_wfFrom hm hm' h

theorem Memory.mem_put {i : Nat} {v : Byte} {m : Memory} {cell : Host.Cell} (h : cell ∈ Memory.put i v m) :
    cell = (i, v) ∨ cell ∈ m := by
  unfold Memory.put at h
  split at h
  · exact .inr h
  · exact List.mem_cons.1 h

/-- A write lists no index but the one written and those listed before. -/
theorem Memory.mem_write {i : Nat} {v : Byte} {m : Memory} {cell : Host.Cell} (h : cell ∈ Memory.write i v m) :
    cell = (i, v) ∨ cell ∈ m := by
  induction m with
  | nil => exact Memory.mem_put h
  | cons head m ih =>
    unfold Memory.write at h
    split at h
    · rcases List.mem_cons.1 h with h | h
      · exact .inr (h ▸ List.mem_cons_self)
      · exact (ih h).imp_right (List.mem_cons_of_mem _)
    · split at h
      · exact (Memory.mem_put h).imp_right (List.mem_cons_of_mem _)
      · exact Memory.mem_put h

/-- No listed index lies below the list's bound. -/
theorem Memory.le_of_mem {lo : Nat} {m : Memory} (hm : Memory.wfFrom lo m = true) {cell : Host.Cell} (h : cell ∈ m) :
    lo ≤ cell.1 := by
  induction m generalizing lo with
  | nil => cases h
  | cons head m ih =>
    obtain ⟨hlo, -, htail⟩ := (Memory.wfFrom_cons ..).1 hm
    rcases List.mem_cons.1 h with h | h
    · exact h ▸ hlo
    · have := ih htail h; omega

/-- A listed cell is what its index reads as. -/
theorem Memory.read_of_mem {lo : Nat} {m : Memory} (hm : Memory.wfFrom lo m = true) {cell : Host.Cell}
    (h : cell ∈ m) : Memory.read cell.1 m = cell.2 := by
  induction m generalizing lo with
  | nil => cases h
  | cons head m ih =>
    obtain ⟨-, -, htail⟩ := (Memory.wfFrom_cons ..).1 hm
    rw [Memory.read_cons]
    rcases List.mem_cons.1 h with h | h
    · subst h; simp
    · have := Memory.le_of_mem htail h
      rw [if_neg (by omega)]
      exact ih htail h

/-- Every byte a canonical buffer lists is one that is not 0x00. -/
theorem Memory.ne_unlisted_of_mem {lo : Nat} {m : Memory} (hm : Memory.wfFrom lo m = true) {cell : Host.Cell}
    (h : cell ∈ m) : cell.2 ≠ Memory.unlisted := by
  induction m generalizing lo with
  | nil => cases h
  | cons head m ih =>
    obtain ⟨-, hb, htail⟩ := (Memory.wfFrom_cons ..).1 hm
    rcases List.mem_cons.1 h with h | h
    · exact h ▸ hb
    · exact ih htail h

end Sys2Proof.Machine
end

