-- ==== Sys2Proof/Laws/State.lean ====
section
/-! SUPPORT. One lemma per field per update of the state, so that no proof unfolds a record update. -/

namespace Sys2Proof.Machine

/-! ### storeBuffer -/

@[simp] theorem storeBuffer_config (m : Memory) (s : State) : (storeBuffer m s).config = s.config := rfl
@[simp] theorem storeBuffer_buf (m : Memory) (s : State) : (storeBuffer m s).buf = m := rfl
@[simp] theorem storeBuffer_lifecycle (m : Memory) (s : State) : (storeBuffer m s).lifecycle = s.lifecycle := rfl
@[simp] theorem storeBuffer_winColStart (m : Memory) (s : State) : (storeBuffer m s).winColStart = s.winColStart := rfl
@[simp] theorem storeBuffer_winColStop (m : Memory) (s : State) : (storeBuffer m s).winColStop = s.winColStop := rfl
@[simp] theorem storeBuffer_winRowStart (m : Memory) (s : State) : (storeBuffer m s).winRowStart = s.winRowStart := rfl
@[simp] theorem storeBuffer_winRowStop (m : Memory) (s : State) : (storeBuffer m s).winRowStop = s.winRowStop := rfl
@[simp] theorem storeBuffer_status (m : Memory) (s : State) : (storeBuffer m s).status = s.status := rfl
@[simp] theorem storeBuffer_orientUndef (m : Memory) (s : State) : (storeBuffer m s).orientUndef = s.orientUndef := rfl
@[simp] theorem storeBuffer_lines (m : Memory) (s : State) : (storeBuffer m s).lines = s.lines := rfl
@[simp] theorem storeBuffer_trace (m : Memory) (s : State) : (storeBuffer m s).trace = s.trace := rfl
@[simp] theorem storeBuffer_refused (m : Memory) (s : State) : (storeBuffer m s).refused = s.refused := rfl
@[simp] theorem storeBuffer_requests (m : Memory) (s : State) : (storeBuffer m s).requests = s.requests := rfl
@[simp] theorem storeBuffer_response (m : Memory) (s : State) : (storeBuffer m s).response = s.response := rfl

/-! ### emitAll -/

@[simp] theorem emitAll_config (es : List BusEvent) (s : State) : (emitAll es s).config = s.config := rfl
@[simp] theorem emitAll_buf (es : List BusEvent) (s : State) : (emitAll es s).buf = s.buf := rfl
@[simp] theorem emitAll_lifecycle (es : List BusEvent) (s : State) : (emitAll es s).lifecycle = s.lifecycle := rfl
@[simp] theorem emitAll_winColStart (es : List BusEvent) (s : State) : (emitAll es s).winColStart = s.winColStart := rfl
@[simp] theorem emitAll_winColStop (es : List BusEvent) (s : State) : (emitAll es s).winColStop = s.winColStop := rfl
@[simp] theorem emitAll_winRowStart (es : List BusEvent) (s : State) : (emitAll es s).winRowStart = s.winRowStart := rfl
@[simp] theorem emitAll_winRowStop (es : List BusEvent) (s : State) : (emitAll es s).winRowStop = s.winRowStop := rfl
@[simp] theorem emitAll_status (es : List BusEvent) (s : State) : (emitAll es s).status = s.status := rfl
@[simp] theorem emitAll_orientUndef (es : List BusEvent) (s : State) : (emitAll es s).orientUndef = s.orientUndef := rfl
@[simp] theorem emitAll_lines (es : List BusEvent) (s : State) : (emitAll es s).lines = s.lines.applyAll es := rfl
@[simp] theorem emitAll_trace (es : List BusEvent) (s : State) : (emitAll es s).trace = s.trace ++ es := rfl
@[simp] theorem emitAll_refused (es : List BusEvent) (s : State) : (emitAll es s).refused = s.refused := rfl
@[simp] theorem emitAll_requests (es : List BusEvent) (s : State) : (emitAll es s).requests = s.requests := rfl
@[simp] theorem emitAll_response (es : List BusEvent) (s : State) : (emitAll es s).response = s.response := rfl

/-! ### latchWindow -/

@[simp] theorem latchWindow_config (w : Window) (s : State) : (latchWindow w s).config = s.config := rfl
@[simp] theorem latchWindow_buf (w : Window) (s : State) : (latchWindow w s).buf = s.buf := rfl
@[simp] theorem latchWindow_lifecycle (w : Window) (s : State) : (latchWindow w s).lifecycle = s.lifecycle := rfl
@[simp] theorem latchWindow_winColStart (w : Window) (s : State) : (latchWindow w s).winColStart = w.colStart := rfl
@[simp] theorem latchWindow_winColStop (w : Window) (s : State) : (latchWindow w s).winColStop = w.colStop := rfl
@[simp] theorem latchWindow_winRowStart (w : Window) (s : State) : (latchWindow w s).winRowStart = w.rowStart := rfl
@[simp] theorem latchWindow_winRowStop (w : Window) (s : State) : (latchWindow w s).winRowStop = w.rowStop := rfl
@[simp] theorem latchWindow_status (w : Window) (s : State) : (latchWindow w s).status = s.status := rfl
@[simp] theorem latchWindow_orientUndef (w : Window) (s : State) : (latchWindow w s).orientUndef = s.orientUndef := rfl
@[simp] theorem latchWindow_lines (w : Window) (s : State) : (latchWindow w s).lines = s.lines := rfl
@[simp] theorem latchWindow_trace (w : Window) (s : State) : (latchWindow w s).trace = s.trace := rfl
@[simp] theorem latchWindow_refused (w : Window) (s : State) : (latchWindow w s).refused = s.refused := rfl
@[simp] theorem latchWindow_requests (w : Window) (s : State) : (latchWindow w s).requests = s.requests := rfl
@[simp] theorem latchWindow_response (w : Window) (s : State) : (latchWindow w s).response = s.response := rfl

/-! ### enter -/

@[simp] theorem enter_config (l : Lifecycle) (s : State) : (enter l s).config = s.config := rfl
@[simp] theorem enter_buf (l : Lifecycle) (s : State) : (enter l s).buf = s.buf := rfl
@[simp] theorem enter_lifecycle (l : Lifecycle) (s : State) : (enter l s).lifecycle = l := rfl
@[simp] theorem enter_winColStart (l : Lifecycle) (s : State) : (enter l s).winColStart = s.winColStart := rfl
@[simp] theorem enter_winColStop (l : Lifecycle) (s : State) : (enter l s).winColStop = s.winColStop := rfl
@[simp] theorem enter_winRowStart (l : Lifecycle) (s : State) : (enter l s).winRowStart = s.winRowStart := rfl
@[simp] theorem enter_winRowStop (l : Lifecycle) (s : State) : (enter l s).winRowStop = s.winRowStop := rfl
@[simp] theorem enter_status (l : Lifecycle) (s : State) : (enter l s).status = s.status := rfl
@[simp] theorem enter_orientUndef (l : Lifecycle) (s : State) : (enter l s).orientUndef = s.orientUndef := rfl
@[simp] theorem enter_lines (l : Lifecycle) (s : State) : (enter l s).lines = s.lines := rfl
@[simp] theorem enter_trace (l : Lifecycle) (s : State) : (enter l s).trace = s.trace := rfl
@[simp] theorem enter_refused (l : Lifecycle) (s : State) : (enter l s).refused = s.refused := rfl
@[simp] theorem enter_requests (l : Lifecycle) (s : State) : (enter l s).requests = s.requests := rfl
@[simp] theorem enter_response (l : Lifecycle) (s : State) : (enter l s).response = s.response := rfl

/-! ### markOrientation -/

@[simp] theorem markOrientation_config (s : State) : (markOrientation s).config = s.config := rfl
@[simp] theorem markOrientation_buf (s : State) : (markOrientation s).buf = s.buf := rfl
@[simp] theorem markOrientation_lifecycle (s : State) : (markOrientation s).lifecycle = s.lifecycle := rfl
@[simp] theorem markOrientation_winColStart (s : State) : (markOrientation s).winColStart = s.winColStart := rfl
@[simp] theorem markOrientation_winColStop (s : State) : (markOrientation s).winColStop = s.winColStop := rfl
@[simp] theorem markOrientation_winRowStart (s : State) : (markOrientation s).winRowStart = s.winRowStart := rfl
@[simp] theorem markOrientation_winRowStop (s : State) : (markOrientation s).winRowStop = s.winRowStop := rfl
@[simp] theorem markOrientation_status (s : State) : (markOrientation s).status = s.status := rfl
@[simp] theorem markOrientation_orientUndef (s : State) : (markOrientation s).orientUndef = true := rfl
@[simp] theorem markOrientation_lines (s : State) : (markOrientation s).lines = s.lines := rfl
@[simp] theorem markOrientation_trace (s : State) : (markOrientation s).trace = s.trace := rfl
@[simp] theorem markOrientation_refused (s : State) : (markOrientation s).refused = s.refused := rfl
@[simp] theorem markOrientation_requests (s : State) : (markOrientation s).requests = s.requests := rfl
@[simp] theorem markOrientation_response (s : State) : (markOrientation s).response = s.response := rfl

/-! ### respond -/

@[simp] theorem respond_config (code : Status) (d : ResponseData) (s : State) : (respond code d s).config = s.config := rfl
@[simp] theorem respond_buf (code : Status) (d : ResponseData) (s : State) : (respond code d s).buf = s.buf := rfl
@[simp] theorem respond_lifecycle (code : Status) (d : ResponseData) (s : State) : (respond code d s).lifecycle = s.lifecycle := rfl
@[simp] theorem respond_winColStart (code : Status) (d : ResponseData) (s : State) : (respond code d s).winColStart = s.winColStart := rfl
@[simp] theorem respond_winColStop (code : Status) (d : ResponseData) (s : State) : (respond code d s).winColStop = s.winColStop := rfl
@[simp] theorem respond_winRowStart (code : Status) (d : ResponseData) (s : State) : (respond code d s).winRowStart = s.winRowStart := rfl
@[simp] theorem respond_winRowStop (code : Status) (d : ResponseData) (s : State) : (respond code d s).winRowStop = s.winRowStop := rfl
@[simp] theorem respond_status (code : Status) (d : ResponseData) (s : State) : (respond code d s).status = code := rfl
@[simp] theorem respond_orientUndef (code : Status) (d : ResponseData) (s : State) : (respond code d s).orientUndef = s.orientUndef := rfl
@[simp] theorem respond_lines (code : Status) (d : ResponseData) (s : State) : (respond code d s).lines = s.lines := rfl
@[simp] theorem respond_trace (code : Status) (d : ResponseData) (s : State) : (respond code d s).trace = s.trace := rfl
@[simp] theorem respond_refused (code : Status) (d : ResponseData) (s : State) : (respond code d s).refused = s.refused := rfl
@[simp] theorem respond_requests (code : Status) (d : ResponseData) (s : State) : (respond code d s).requests = s.requests := rfl
@[simp] theorem respond_response (code : Status) (d : ResponseData) (s : State) : (respond code d s).response = some (responseWord (respond code d s) d) := rfl

/-! ### markRefused -/

@[simp] theorem markRefused_config (r : RefusalReason) (s : State) : (markRefused r s).config = s.config := rfl
@[simp] theorem markRefused_buf (r : RefusalReason) (s : State) : (markRefused r s).buf = s.buf := rfl
@[simp] theorem markRefused_lifecycle (r : RefusalReason) (s : State) : (markRefused r s).lifecycle = s.lifecycle := rfl
@[simp] theorem markRefused_winColStart (r : RefusalReason) (s : State) : (markRefused r s).winColStart = s.winColStart := rfl
@[simp] theorem markRefused_winColStop (r : RefusalReason) (s : State) : (markRefused r s).winColStop = s.winColStop := rfl
@[simp] theorem markRefused_winRowStart (r : RefusalReason) (s : State) : (markRefused r s).winRowStart = s.winRowStart := rfl
@[simp] theorem markRefused_winRowStop (r : RefusalReason) (s : State) : (markRefused r s).winRowStop = s.winRowStop := rfl
@[simp] theorem markRefused_status (r : RefusalReason) (s : State) : (markRefused r s).status = s.status := rfl
@[simp] theorem markRefused_orientUndef (r : RefusalReason) (s : State) : (markRefused r s).orientUndef = s.orientUndef := rfl
@[simp] theorem markRefused_lines (r : RefusalReason) (s : State) : (markRefused r s).lines = s.lines := rfl
@[simp] theorem markRefused_trace (r : RefusalReason) (s : State) : (markRefused r s).trace = s.trace := rfl
@[simp] theorem markRefused_refused (r : RefusalReason) (s : State) : (markRefused r s).refused = some r := rfl
@[simp] theorem markRefused_requests (r : RefusalReason) (s : State) : (markRefused r s).requests = s.requests := rfl
@[simp] theorem markRefused_response (r : RefusalReason) (s : State) : (markRefused r s).response = s.response := rfl

/-! ### withRequests -/

@[simp] theorem withRequests_config (ws : List Word) (s : State) : (withRequests ws s).config = s.config := rfl
@[simp] theorem withRequests_buf (ws : List Word) (s : State) : (withRequests ws s).buf = s.buf := rfl
@[simp] theorem withRequests_lifecycle (ws : List Word) (s : State) : (withRequests ws s).lifecycle = s.lifecycle := rfl
@[simp] theorem withRequests_winColStart (ws : List Word) (s : State) : (withRequests ws s).winColStart = s.winColStart := rfl
@[simp] theorem withRequests_winColStop (ws : List Word) (s : State) : (withRequests ws s).winColStop = s.winColStop := rfl
@[simp] theorem withRequests_winRowStart (ws : List Word) (s : State) : (withRequests ws s).winRowStart = s.winRowStart := rfl
@[simp] theorem withRequests_winRowStop (ws : List Word) (s : State) : (withRequests ws s).winRowStop = s.winRowStop := rfl
@[simp] theorem withRequests_status (ws : List Word) (s : State) : (withRequests ws s).status = s.status := rfl
@[simp] theorem withRequests_orientUndef (ws : List Word) (s : State) : (withRequests ws s).orientUndef = s.orientUndef := rfl
@[simp] theorem withRequests_lines (ws : List Word) (s : State) : (withRequests ws s).lines = s.lines := rfl
@[simp] theorem withRequests_trace (ws : List Word) (s : State) : (withRequests ws s).trace = s.trace := rfl
@[simp] theorem withRequests_refused (ws : List Word) (s : State) : (withRequests ws s).refused = s.refused := rfl
@[simp] theorem withRequests_requests (ws : List Word) (s : State) : (withRequests ws s).requests = ws := rfl
@[simp] theorem withRequests_response (ws : List Word) (s : State) : (withRequests ws s).response = s.response := rfl

/-! ### the reset state of a configuration (R230) -/

@[simp] theorem ofConfig_config (c : Config) : (State.ofConfig c).config = c := rfl
@[simp] theorem ofConfig_buf (c : Config) : (State.ofConfig c).buf = [] := rfl
@[simp] theorem ofConfig_lifecycle (c : Config) : (State.ofConfig c).lifecycle = .uninitialized := rfl
@[simp] theorem ofConfig_winColStart (c : Config) : (State.ofConfig c).winColStart = 0 := rfl
@[simp] theorem ofConfig_winColStop (c : Config) : (State.ofConfig c).winColStop = 0 := rfl
@[simp] theorem ofConfig_winRowStart (c : Config) : (State.ofConfig c).winRowStart = 0 := rfl
@[simp] theorem ofConfig_winRowStop (c : Config) : (State.ofConfig c).winRowStop = 0 := rfl
@[simp] theorem ofConfig_status (c : Config) : (State.ofConfig c).status = .ok := rfl
@[simp] theorem ofConfig_orientUndef (c : Config) : (State.ofConfig c).orientUndef = false := rfl
@[simp] theorem ofConfig_lines (c : Config) : (State.ofConfig c).lines = .undriven := rfl
@[simp] theorem ofConfig_trace (c : Config) : (State.ofConfig c).trace = [] := rfl
@[simp] theorem ofConfig_refused (c : Config) : (State.ofConfig c).refused = none := rfl
@[simp] theorem ofConfig_requests (c : Config) : (State.ofConfig c).requests = [] := rfl
@[simp] theorem ofConfig_response (c : Config) : (State.ofConfig c).response = none := rfl

end Sys2Proof.Machine
end

