-- ==== Sys2Proof/Laws/Words.lean ====
section
/-! SUPPORT. The fields of the words the model builds: the response word (R79) and the request word (R71, R72). -/

namespace Sys2Proof

/-! ### The request word -/

@[simp] theorem opField_wordOf (op b3 b2 b1 b0 : Byte) : opField (wordOf op b3 b2 b1 b0) = op := by
  simp (disch := omega) only [opField, wordOf, BitVec.extractLsb'_append_eq_of_le]
  exact BitVec.extractLsb'_eq_self

@[simp] theorem field0_wordOf (op b3 b2 b1 b0 : Byte) : field0 (wordOf op b3 b2 b1 b0) = b0 := by
  simp (disch := omega) only [field0, wordOf, BitVec.extractLsb'_append_eq_of_add_le]
  exact BitVec.extractLsb'_eq_self

@[simp] theorem field1_wordOf (op b3 b2 b1 b0 : Byte) : field1 (wordOf op b3 b2 b1 b0) = b1 := by
  simp (disch := omega) only [field1, wordOf, BitVec.extractLsb'_append_eq_of_le, BitVec.extractLsb'_append_eq_of_add_le]
  exact BitVec.extractLsb'_eq_self

@[simp] theorem field2_wordOf (op b3 b2 b1 b0 : Byte) : field2 (wordOf op b3 b2 b1 b0) = b2 := by
  simp (disch := omega) only [field2, wordOf, BitVec.extractLsb'_append_eq_of_le, BitVec.extractLsb'_append_eq_of_add_le]
  exact BitVec.extractLsb'_eq_self

@[simp] theorem field3_wordOf (op b3 b2 b1 b0 : Byte) : field3 (wordOf op b3 b2 b1 b0) = b3 := by
  simp (disch := omega) only [field3, wordOf, BitVec.extractLsb'_append_eq_of_le, BitVec.extractLsb'_append_eq_of_add_le]
  exact BitVec.extractLsb'_eq_self

/-- A request word as a number. -/
theorem toNat_wordOf (op b3 b2 b1 b0 : Byte) :
    (wordOf op b3 b2 b1 b0).toNat
      = op.toNat * 2 ^ 56 + b3.toNat * 2 ^ 24 + b2.toNat * 2 ^ 16 + b1.toNat * 2 ^ 8 + b0.toNat := by
  have h : ∀ {m n : Nat} (x : BitVec m) (y : BitVec n), (x ++ y).toNat = x.toNat * 2 ^ n + y.toNat := by
    intro m n x y
    rw [BitVec.toNat_append, ← Nat.shiftLeft_add_eq_or_of_lt y.isLt, Nat.shiftLeft_eq]
  have h0 := b0.isLt
  have h1 := b1.isLt
  have h2 := b2.isLt
  have h3 := b3.isLt
  simp only [wordOf, h, BitVec.toNat_ofNat]
  omega

/-- How many low bits of a row's words are operand bits: the zero bits of its mask (R72, R74). -/
def Opcode.operandBits : Opcode → Nat
  | .setPixel => 24
  | .getPixel => 16
  | .clear => 0
  | .readByte => 16
  | .computeWindow => 32
  | .flushAll => 0
  | .flushRegion => 32
  | .sendCommand => 8
  | .sendData => 8
  | .configureLines => 0
  | .powerOn => 0
  | .setContrast => 8

/-- Keeping the bits from `k` up is dropping the low `k` bits of the number. -/
theorem and_highMask (w : Word) (k : Nat) :
    (w &&& (BitVec.allOnes 64 <<< k)).toNat = w.toNat / 2 ^ k * 2 ^ k := by
  have h : w &&& (BitVec.allOnes 64 <<< k) = (w >>> k) <<< k := by
    apply BitVec.eq_of_getLsbD_eq
    intro i hi
    simp only [BitVec.getLsbD_and, BitVec.getLsbD_shiftLeft, BitVec.getLsbD_allOnes, BitVec.getLsbD_ushiftRight]
    by_cases hik : i < k
    · simp [hik]
    · have hlt : i - k < 64 := by omega
      have heq : k + (i - k) = i := by omega
      simp [hi, hik, hlt, heq]
  rw [h, BitVec.toNat_shiftLeft, BitVec.toNat_ushiftRight, Nat.shiftLeft_eq, Nat.shiftRight_eq_div_pow]
  apply Nat.mod_eq_of_lt
  have := Nat.div_mul_le_self w.toNat (2 ^ k)
  have := w.isLt
  omega

/-- A word meets a row's match under its mask exactly when it agrees with the match above the operand bits. -/
theorem Opcode.matches_iff (op : Opcode) (w : Word) :
    w &&& op.mask = op.pattern ↔ w.toNat / 2 ^ op.operandBits = op.pattern.toNat / 2 ^ op.operandBits := by
  have hmask : op.mask = BitVec.allOnes 64 <<< op.operandBits := by cases op <;> rfl
  have hdvd : op.pattern.toNat = op.pattern.toNat / 2 ^ op.operandBits * 2 ^ op.operandBits := by cases op <;> rfl
  rw [← BitVec.toNat_inj, hmask, and_highMask]
  constructor
  · intro h
    rw [hdvd] at h
    exact Nat.eq_of_mul_eq_mul_right (Nat.two_pow_pos _) h
  · intro h
    rw [h, ← hdvd]

namespace Machine

/-! ### The response word -/

/-- Every field of a response word is the one R79 names. -/
theorem responseOf_responseWord (t : State) (d : ResponseData) : ResponseOf t d (responseWord t d) := by
  constructor <;>
  · simp (disch := omega) only [responseWord, BitVec.extractLsb'_append_eq_of_le, BitVec.extractLsb'_append_eq_of_add_le]
    exact BitVec.extractLsb'_eq_self

/-- The response word and its data say nothing of a state but its STATUS, LIFECYCLE and ORIENT_UNDEF. -/
theorem ResponseOf.of_eq {s t : State} {d : ResponseData} {w : Word} (h : ResponseOf s d w)
    (hs : t.status = s.status) (hl : t.lifecycle = s.lifecycle) (ho : t.orientUndef = s.orientUndef) :
    ResponseOf t d w where
  status := by rw [hs]; exact h.status
  life := by rw [hl]; exact h.life
  orientUndef := by rw [ho]; exact h.orientUndef
  zeroLow := h.zeroLow
  rdata0 := h.rdata0
  rdata1 := h.rdata1
  rdata2 := h.rdata2
  rdata3 := h.rdata3
  zeroHigh := h.zeroHigh

/-- A request that ends leaves its response on the port (R24, R79). -/
theorem reports_respond (code : Status) (d : ResponseData) (s : State) : Reports (respond code d s) d :=
  ⟨_, rfl, responseOf_responseWord (respond code d s) d⟩

end Machine

end Sys2Proof
end

