-- ==== Sys2Proof/Laws/Ops.lean ====
section
/-! SUPPORT. What each shared operation of Machine/Ops.lean and Machine/Operands.lean can do, said once. -/

namespace Sys2Proof

/-- A legal configuration, as the bounds of R6, R7 and R13. -/
theorem Config.legal_iff (c : Config) :
    c.legal = true ↔ 16 ≤ c.width ∧ c.width ≤ 128 ∧ c.width % 2 = 0 ∧ 16 ≤ c.height ∧ c.height ≤ 128
      ∧ c.transport = .parallel := by
  simp [Config.legal, and_assoc]

/-- With an even width the buffer is HEIGHT rows of HALF_W bytes (R14). -/
theorem Config.bufLen_eq {c : Config} (h : c.legal = true) : c.bufLen = c.height * c.halfW := by
  obtain ⟨-, -, heven, -⟩ := c.legal_iff.1 h
  obtain ⟨k, hk⟩ : ∃ k, c.width = 2 * k := ⟨c.width / 2, by omega⟩
  rw [Config.bufLen, Config.halfW, hk, Nat.mul_assoc, Nat.mul_div_cancel_left _ two_pos,
    Nat.mul_div_cancel_left _ two_pos, Nat.mul_comm]

namespace Machine

/-! ### The buffer -/

theorem bufRead_of_lt {i : Nat} {s : State} (h : i < s.config.bufLen) : bufRead i s = .ok (s.buf.read i) :=
  if_pos h

theorem bufWrite_of_lt {i : Nat} {s : State} (h : i < s.config.bufLen) (v : Byte) :
    bufWrite i v s = .ok (storeBuffer (s.buf.write i v) s) :=
  if_pos h

/-- A read that answers a byte read an existing index. -/
theorem bufRead_eq_ok {i : Nat} {s : State} {b : Byte} (h : bufRead i s = .ok b) :
    i < s.config.bufLen ∧ b = s.buf.read i := by
  unfold bufRead at h
  split at h
  · exact ⟨‹_›, (Except.ok.inj h).symm⟩
  · cases h

/-- A write that answers a state wrote an existing index and changed nothing but the buffer. -/
theorem bufWrite_eq_ok {i : Nat} {v : Byte} {s t : State} (h : bufWrite i v s = .ok t) :
    i < s.config.bufLen ∧ t = storeBuffer (s.buf.write i v) s := by
  unfold bufWrite at h
  split at h
  · exact ⟨‹_›, (Except.ok.inj h).symm⟩
  · cases h

/-- The transfer engine's view of existing indices is the list of their bytes. -/
theorem bufReadAll_of_lt {is : List Nat} {s : State} (h : ∀ i ∈ is, i < s.config.bufLen) :
    bufReadAll is s = .ok (is.map fun i => s.buf.read i) := by
  induction is with
  | nil => rfl
  | cons i is ih =>
    rw [bufReadAll, bufRead_of_lt (h i List.mem_cons_self), ih fun j hj => h j (List.mem_cons_of_mem _ hj)]
    rfl

/-- A view that answers bytes answers those of the indices, which all exist. -/
theorem bufReadAll_eq_ok {is : List Nat} {s : State} {bytes : List Byte} (h : bufReadAll is s = .ok bytes) :
    (∀ i ∈ is, i < s.config.bufLen) ∧ bytes = is.map fun i => s.buf.read i := by
  by_cases hall : ∀ i ∈ is, i < s.config.bufLen
  · rw [bufReadAll_of_lt hall] at h
    exact ⟨hall, (Except.ok.inj h).symm⟩
  · exfalso
    refine hall ?_
    clear hall
    induction is generalizing bytes with
    | nil => simp
    | cons i is ih =>
      unfold bufReadAll at h
      split at h
      · cases h
      · split at h
        · cases h
        · rename_i _ _ hi _ _ his
          exact List.forall_mem_cons.2 ⟨(bufRead_eq_ok hi).1, ih his⟩

/-! ### The lines and the trace -/

@[simp] theorem Lines.applyAll_nil (l : Lines) : l.applyAll [] = l := rfl

@[simp] theorem Lines.applyAll_cons (l : Lines) (e : BusEvent) (es : List BusEvent) :
    l.applyAll (e :: es) = (l.apply e).applyAll es := rfl

theorem Lines.applyAll_append (l : Lines) (es fs : List BusEvent) :
    l.applyAll (es ++ fs) = (l.applyAll es).applyAll fs := by
  induction es generalizing l with
  | nil => rfl
  | cons e es ih => exact ih (l.apply e)

theorem latchedFrom_append (l : Lines) (es fs : List BusEvent) :
    latchedFrom l (es ++ fs) = latchedFrom l es ++ latchedFrom (l.applyAll es) fs := by
  induction es generalizing l with
  | nil => rfl
  | cons e es ih => simp [latchedFrom, ih (l.apply e)]

theorem changesFrom_append (l : Lines) (es fs : List BusEvent) :
    changesFrom l (es ++ fs) = changesFrom l es ++ changesFrom (l.applyAll es) fs := by
  induction es generalizing l with
  | nil => rfl
  | cons e es ih =>
    simp only [List.cons_append, changesFrom, ih (l.apply e), Lines.applyAll_cons]
    split <;> rfl

theorem busInOrder_append (l : Lines) (es fs : List BusEvent) :
    busInOrder l (es ++ fs) = (busInOrder l es && busInOrder (l.applyAll es) fs) := by
  induction es generalizing l with
  | nil => rfl
  | cons e es ih => simp [busInOrder, ih (l.apply e), Bool.and_assoc]

/-! ### Coordinates -/

theorem pixelOutside_eq_false {c : Config} {x y : Byte} :
    pixelOutside c x y = false ↔ x.toNat < c.width ∧ y.toNat < c.height := by
  simp [pixelOutside]

theorem pixelOutside_eq_true {c : Config} {x y : Byte} :
    pixelOutside c x y = true ↔ c.width ≤ x.toNat ∨ c.height ≤ y.toNat := by
  simp [pixelOutside]

/-- A packed column of a row of the buffer is a byte of the buffer (R50, R51). -/
theorem rowIndex_lt {c : Config} (h : c.legal = true) {col row : Nat} (hcol : col < c.halfW) (hrow : row < c.height) :
    col + row * c.halfW < c.bufLen := by
  rw [Config.bufLen_eq h]
  calc col + row * c.halfW < (row + 1) * c.halfW := by rw [Nat.succ_mul]; omega
    _ ≤ c.height * c.halfW := Nat.mul_le_mul_right _ hrow

theorem half_lt {c : Config} (h : c.legal = true) {x : Nat} (hx : x < c.width) : x / 2 < c.halfW := by
  obtain ⟨-, -, heven, -⟩ := c.legal_iff.1 h
  rw [Config.halfW]
  omega

/-- Every pixel of the grid lies in the buffer (R51, R60). -/
theorem pixelIndex_lt {c : Config} (h : c.legal = true) {x y : Byte} (hx : x.toNat < c.width)
    (hy : y.toNat < c.height) : pixelIndex c x y < c.bufLen :=
  rowIndex_lt h (half_lt h hx) hy

/-! ### The window function (R120) -/

/-- When the window function succeeds, and with what. -/
theorem windowOf_eq_ok {c : Config} {r : Region} {w : Window} :
    windowOf c r = .ok w ↔
      (r.xs.toNat < c.width ∧ r.xe.toNat < c.width ∧ r.ys.toNat < c.height ∧ r.ye.toNat < c.height)
        ∧ (r.xs.toNat ≤ r.xe.toNat ∧ r.ys.toNat ≤ r.ye.toNat) ∧ w = ⟨r.xs / 2, r.xe / 2, r.ys, r.ye⟩ := by
  unfold windowOf
  split
  · simp; omega
  · split
    · simp; omega
    · constructor
      · intro h
        exact ⟨by omega, by omega, (Except.ok.inj h).symm⟩
      · rintro ⟨-, -, rfl⟩
        rfl

/-- The window function fails with WRONG_POSITION and nothing else (R123). -/
theorem windowOf_eq_error {c : Config} {r : Region} {code : Status} :
    windowOf c r = .error code ↔ code = .wrongPosition ∧ badRegion c r.xs r.ys r.xe r.ye := by
  unfold windowOf badRegion
  split
  · constructor
    · intro h; exact ⟨(Except.error.inj h).symm, by omega⟩
    · rintro ⟨rfl, -⟩; rfl
  · split
    · constructor
      · intro h; exact ⟨(Except.error.inj h).symm, by omega⟩
      · rintro ⟨rfl, -⟩; rfl
    · constructor
      · intro h; cases h
      · rintro ⟨-, h⟩; omega

@[simp] theorem toNat_half (x : Byte) : (x / 2).toNat = x.toNat / 2 := by
  simp [BitVec.toNat_udiv]

/-- A successful window is one of the buffer (R121). -/
theorem window_range {c : Config} (h : c.legal = true) {r : Region} {w : Window} (hw : windowOf c r = .ok w) :
    w.colStart.toNat ≤ w.colStop.toNat ∧ w.colStop.toNat < c.halfW ∧ w.rowStart.toNat ≤ w.rowStop.toNat
      ∧ w.rowStop.toNat < c.height := by
  obtain ⟨⟨-, hxe, -, hye⟩, ⟨hx, hy⟩, rfl⟩ := windowOf_eq_ok.1 hw
  simp only [toNat_half]
  exact ⟨Nat.div_le_div_right hx, half_lt h hxe, hy, hye⟩

/-- The full region of a legal configuration is valid (R126). -/
theorem windowOf_fullRegion {c : Config} (h : c.legal = true) :
    windowOf c (fullRegion c) = .ok ⟨0, .ofNat 8 (c.width - 1) / 2, 0, .ofNat 8 (c.height - 1)⟩ := by
  obtain ⟨hw, hw', -, hh, hh', -⟩ := c.legal_iff.1 h
  refine windowOf_eq_ok.2 ⟨?_, ?_, by simp [fullRegion]⟩
  · simp [fullRegion]; omega
  · simp [fullRegion]

theorem mem_upTo {a b i : Nat} : i ∈ upTo a b ↔ a ≤ i ∧ i ≤ b := by
  rw [upTo, List.mem_range'_1]
  omega

@[simp] theorem length_upTo (a b : Nat) : (upTo a b).length = b + 1 - a := List.length_range'

/-- The indices of a window: one for each packed column of each row (R161). -/
theorem mem_windowIndices {c : Config} {w : Window} {i : Nat} :
    i ∈ windowIndices c w ↔ ∃ row col, (w.rowStart.toNat ≤ row ∧ row ≤ w.rowStop.toNat)
      ∧ (w.colStart.toNat ≤ col ∧ col ≤ w.colStop.toNat) ∧ i = col + row * c.halfW := by
  simp only [windowIndices, List.mem_flatMap, List.mem_map, mem_upTo]
  constructor
  · rintro ⟨row, hrow, col, hcol, rfl⟩
    exact ⟨row, col, hrow, hcol, rfl⟩
  · rintro ⟨row, col, hrow, hcol, rfl⟩
    exact ⟨row, hrow, col, hcol, rfl⟩

theorem windowIndices_lt {c : Config} (h : c.legal = true) {r : Region} {w : Window} (hw : windowOf c r = .ok w) :
    ∀ i ∈ windowIndices c w, i < c.bufLen := by
  obtain ⟨-, hcol, -, hrow⟩ := window_range h hw
  intro i hi
  obtain ⟨row, col, hr, hc, rfl⟩ := mem_windowIndices.1 hi
  exact rowIndex_lt h (by omega) (by omega)

theorem length_windowIndices (c : Config) (w : Window) :
    (windowIndices c w).length
      = (w.rowStop.toNat + 1 - w.rowStart.toNat) * (w.colStop.toNat + 1 - w.colStart.toNat) := by
  simp [windowIndices, List.length_flatMap]

theorem allIndices_lt (c : Config) : ∀ i ∈ allIndices c, i < c.bufLen := by
  simp [allIndices]

@[simp] theorem length_allIndices (c : Config) : (allIndices c).length = c.bufLen := List.length_range

end Machine

end Sys2Proof
end

