-- ==== Sys2Proof/Laws/Protocol.lean ====
section
/-! SUPPORT. What a transaction does to the lines, what the controller latches of it, and its order on the bus
(R141 to R148). -/

namespace Sys2Proof.Machine

/-- The lines after a transaction (R146). -/
theorem applyAll_frame (l : Lines) (dc : Level) (b : Byte) :
    l.applyAll (frame dc b) =
      { l with
        cs := l.cs.drive .high
        wr := l.wr.drive .high
        rd := l.rd.drive .high
        dc := l.dc.drive dc
        d := l.d.drive b } := rfl

/-- The kind of byte a DC level frames (R140). -/
def kindOf : Level → Kind
  | .low => .command
  | .high => .data

/-- A transaction latches its own byte and nothing else (R148). -/
theorem latchedFrom_frame {l : Lines} (h : l.wr.level = some .high) (dc : Level) (b : Byte) :
    latchedFrom l (frame dc b) = [⟨kindOf dc, some b⟩] := by
  cases dc <;> simp [latchedFrom, frame, latchAt, Lines.apply, LineState.drive, h, kindOf]

/-- A transaction that starts with idle strobes is in order (R145). -/
theorem busInOrder_frame {l : Lines} (hrd : l.rd.level = some .high) (hwr : l.wr.level = some .high) (dc : Level)
    (b : Byte) : busInOrder l (frame dc b) = true := by
  simp [busInOrder, frame, eventInOrder, isChange, Lines.apply, LineState.drive, Lines.wireLevel, hrd, hwr]

@[simp] theorem length_frame (dc : Level) (b : Byte) : (frame dc b).length = 8 := rfl

/-- Lines idle before a transaction are idle after it (R146). -/
theorem LinesIdle.frame {c : Config} {l : Lines} (h : LinesIdle c l) (dc : Level) (b : Byte) :
    LinesIdle c (l.applyAll (frame dc b)) := by
  rw [applyAll_frame]
  exact { h with csHigh := rfl, wrHigh := rfl, rdHigh := rfl, dcDriven := rfl, dDriven := rfl }

/-! ### Lists of transactions -/

/-- Bytes framed one after the other with one DC level. -/
theorem frames_cons (dc : Level) (b : Byte) (bs : List Byte) :
    (b :: bs).flatMap (frame dc) = frame dc b ++ bs.flatMap (frame dc) := rfl

theorem LinesIdle.frames {c : Config} {l : Lines} (h : LinesIdle c l) (dc : Level) (bs : List Byte) :
    LinesIdle c (l.applyAll (bs.flatMap (Machine.frame dc))) := by
  induction bs generalizing l with
  | nil => exact h
  | cons b bs ih =>
    rw [frames_cons, Lines.applyAll_append]
    exact ih (h.frame dc b)

theorem latchedFrom_frames {c : Config} {l : Lines} (h : LinesIdle c l) (dc : Level) (bs : List Byte) :
    latchedFrom l (bs.flatMap (frame dc)) = bs.map fun b => ⟨kindOf dc, some b⟩ := by
  induction bs generalizing l with
  | nil => rfl
  | cons b bs ih =>
    rw [frames_cons, latchedFrom_append, latchedFrom_frame h.wrHigh, ih (h.frame dc b)]
    rfl

theorem busInOrder_frames {c : Config} {l : Lines} (h : LinesIdle c l) (dc : Level) (bs : List Byte) :
    busInOrder l (bs.flatMap (frame dc)) = true := by
  induction bs generalizing l with
  | nil => rfl
  | cons b bs ih =>
    rw [frames_cons, busInOrder_append, busInOrder_frame h.rdHigh h.wrHigh, ih (h.frame dc b)]
    rfl

@[simp] theorem length_frames (dc : Level) (bs : List Byte) : (bs.flatMap (frame dc)).length = 8 * bs.length := by
  induction bs with
  | nil => rfl
  | cons b bs ih =>
    rw [frames_cons, List.length_append, ih, length_frame, List.length_cons]
    omega

/-- The only level a transaction drives RD to is 1 (R150). -/
theorem rdLow_not_mem_frames (dc : Level) (bs : List Byte) : BusEvent.set .rd .low ∉ bs.flatMap (frame dc) := by
  simp [List.mem_flatMap, frame]

/-- No transaction drives LATCH (R141). -/
theorem latch_not_mem_frames (v : Level) (dc : Level) (bs : List Byte) :
    BusEvent.set .latch v ∉ bs.flatMap (frame dc) := by
  simp [List.mem_flatMap, frame]

/-! ### The line configuration (R180) -/

/-- The lines after CONFIGURE_LINES (R180, R181). -/
theorem linesIdle_configure (c : Config) (l : Lines) : LinesIdle c (l.applyAll (configureEvents c)) := by
  constructor <;> rfl

/-- CONFIGURE_LINES latches no byte (R182). -/
theorem latchedFrom_configure (c : Config) : latchedFrom .undriven (configureEvents c) = [] := rfl

end Sys2Proof.Machine
end

