-- ==== Sys2Proof/Laws/Exec.lean ====
section
/-! SUPPORT. What a request can do, said once: `exec_effect` and `step_cases`, from which the claims about every request
and every step follow without unfolding a meaning again. -/

namespace Sys2Proof.Machine

/-- A trace segment made of transactions, and of settle waits between them. -/
inductive Segment where
  | frames (dc : Level) (bytes : List Byte)
  | settle
deriving DecidableEq, Repr

/-- The events of a segment. -/
def Segment.events : Segment → List BusEvent
  | .frames dc bytes => bytes.flatMap (frame dc)
  | .settle => [.settle]

/-- The events of segments one after the other. -/
def segmentEvents (gs : List Segment) : List BusEvent := gs.flatMap Segment.events

/-- The next states a request can lead to, one constructor per way of ending. -/
inductive Effect (s : State) : Instr → State → Prop where
  /-- An argument check failed: OUT_OF_BOUNDS or WRONG_POSITION, and nothing else happened (R209). Without a legal
  configuration the full region may be no window of the buffer. -/
  | rejected (i : Instr) (code : Status) (h : causeOf s.config i code ∨ (i = .flushAll ∧ s.config.legal ≠ true))
      (hcode : code = .outOfBounds ∨ code = .wrongPosition) : Effect s i (respond code .zero s)
  /-- SET_PIXEL wrote one existing byte (R100). -/
  | wrote (x y level : Byte) (hx : x.toNat < s.config.width) (hy : y.toNat < s.config.height)
      (h : pixelIndex s.config x y < s.config.bufLen) :
      Effect s (.setPixel x y level) (respond .ok .zero
        (storeBuffer (s.buf.write (pixelIndex s.config x y)
          (withNibble x (s.buf.read (pixelIndex s.config x y)) (grayLevel level))) s))
  /-- GET_PIXEL read one existing byte (R102). -/
  | readPixel (x y : Byte) (hx : x.toNat < s.config.width) (hy : y.toNat < s.config.height)
      (h : pixelIndex s.config x y < s.config.bufLen) :
      Effect s (.getPixel x y) (respond .ok
        (.ofByte ((nibbleOf x (s.buf.read (pixelIndex s.config x y))).setWidth 8)) s)
  /-- CLEAR (R104). -/
  | cleared : Effect s .clear (respond .ok .zero (storeBuffer [] s))
  /-- READ_BYTE read one existing byte (R106). -/
  | readByte (idx : Index) (h : idx.toNat < s.config.bufLen) :
      Effect s (.readByte idx) (respond .ok (.ofByte (s.buf.read idx.toNat)) s)
  /-- COMPUTE_WINDOW latched a window (R122). -/
  | latchedWindow (xs ys xe ye : Byte) (w : Window) (h : windowOf s.config ⟨xs, ys, xe, ye⟩ = .ok w) :
      Effect s (.computeWindow xs ys xe ye) (respond .ok (windowData (latchWindow w s)) (latchWindow w s))
  /-- A flush latched a window, sent it and streamed existing bytes (R160, R161). -/
  | flushed (i : Instr) (r : Region) (w : Window) (is : List Nat) (hl : s.lifecycle ≠ .uninitialized)
      (hi : (i = .flushAll ∧ r = fullRegion s.config ∧ is = allIndices s.config)
        ∨ (i = .flushRegion r.xs r.ys r.xe r.ye ∧ is = windowIndices s.config w))
      (hw : windowOf s.config r = .ok w) (his : ∀ a ∈ is, a < s.config.bufLen) :
      Effect s i (respond .ok (windowData (latchWindow w s))
        (emitAll (segmentEvents [.frames .low (windowCommands s.config w), .frames .high (is.map fun a => s.buf.read a)])
          (latchWindow w s)))
  /-- SEND_COMMAND, SEND_DATA or SET_CONTRAST framed its bytes (R142, R143, R186). -/
  | sent (i : Instr) (dc : Level) (bytes : List Byte) (hl : s.lifecycle ≠ .uninitialized)
      (hi : (∃ b, i = .sendCommand b ∧ dc = .low ∧ bytes = [b]) ∨ (∃ b, i = .sendData b ∧ dc = .high ∧ bytes = [b])
        ∨ ∃ v, i = .setContrast v ∧ dc = .low ∧ bytes = [s.config.cmdContrast, v]) :
      Effect s i (respond .ok .zero (emitAll (segmentEvents [.frames dc bytes]) s))
  /-- CONFIGURE_LINES (R180). -/
  | configured (hl : s.lifecycle = .uninitialized) :
      Effect s .configureLines (respond .ok .zero
        (enter .configuring (emitAll (configureEvents s.config) s)))
  /-- POWER_ON of a supported variant (R183). -/
  | poweredOn (cmds : List Byte) (hl : s.lifecycle = .configuring) (hv : s.config.variantCommands = some cmds) :
      Effect s .powerOn (respond .ok .zero
        (enter .on (emitAll (segmentEvents [.frames .low [s.config.cmdPowerOn], .settle,
          .frames .low (s.config.cmdNormalDisplay :: cmds)]) s)))
  /-- POWER_ON of a variant with no entry (R183, R203). -/
  | poweredOnUnsupported (hl : s.lifecycle = .configuring) (hv : s.config.variantCommands = none) :
      Effect s .powerOn (respond .unsupportedVariant .zero
        (markOrientation (enter .on (emitAll (segmentEvents [.frames .low [s.config.cmdPowerOn], .settle,
          .frames .low [s.config.cmdNormalDisplay]]) s))))

theorem done_eq_next {d : ResponseData} {s t : State} (h : done d s = .next t) : t = respond .ok d s :=
  (Host.Outcome.next.inj h).symm

theorem fail_eq_next {code : Status} {s t : State} (h : fail code s = .next t) : t = respond code .zero s :=
  (Host.Outcome.next.inj h).symm

/-- A flush's stream, when it answers a next state. -/
theorem streamWindow_eq_next {w : Window} {is : List Nat} {s t : State} (h : streamWindow w is s = .next t) :
    (∀ a ∈ is, a < s.config.bufLen) ∧
      t = respond .ok (windowData (latchWindow w s))
        (emitAll (segmentEvents [.frames .low (windowCommands s.config w), .frames .high (is.map fun a => s.buf.read a)])
          (latchWindow w s)) := by
  unfold streamWindow at h
  split at h
  · cases h
  · rename_i bytes hbytes
    obtain ⟨hlt, rfl⟩ := bufReadAll_eq_ok hbytes
    refine ⟨hlt, ?_⟩
    rw [done_eq_next h]
    simp [segmentEvents, Segment.events, sendWindow, frameCommands, frameData]
    rfl

/-- The power-on sequence as transactions with the settle wait between them (R183). -/
theorem powerOn_segments (c : Config) (cmds : List Byte) :
    powerOnEvents c ++ frameCommands cmds
      = segmentEvents [.frames .low [c.cmdPowerOn], .settle, .frames .low (c.cmdNormalDisplay :: cmds)] := by
  simp [powerOnEvents, frameCommands, segmentEvents, Segment.events]

/-- A bus request that answers a next state was presented after CONFIGURE_LINES (R187). -/
theorem configured_of_next {l : Lifecycle} {k : Host.Outcome State Fault Refusal} {t : State}
    (h : (match l with
      | .uninitialized => refuse .linesNotConfigured
      | .configuring | .on => k) = .next t) : l ≠ .uninitialized ∧ k = .next t := by
  cases l with
  | uninitialized => cases h
  | configuring => exact ⟨by decide, h⟩
  | on => exact ⟨by decide, h⟩

/-- A request that answers a next state had one of the effects above. -/
theorem exec_effect {i : Instr} {s t : State} (h : exec i s = .next t) : Effect s i t := by
  cases i with
  | setPixel x y level =>
    simp only [exec, execSetPixel] at h
    split at h
    · rename_i hout
      exact fail_eq_next h ▸ .rejected _ _ (.inl (pixelOutside_eq_true.1 hout)) (.inl rfl)
    · rename_i hin
      obtain ⟨hx, hy⟩ := pixelOutside_eq_false.1 (Bool.eq_false_iff.2 hin)
      split at h
      · cases h
      · rename_i b hb
        obtain ⟨hlt, rfl⟩ := bufRead_eq_ok hb
        rw [bufWrite_of_lt hlt] at h
        exact done_eq_next h ▸ .wrote x y level hx hy hlt
  | getPixel x y =>
    simp only [exec, execGetPixel] at h
    split at h
    · rename_i hout
      exact fail_eq_next h ▸ .rejected _ _ (.inl (pixelOutside_eq_true.1 hout)) (.inl rfl)
    · rename_i hin
      obtain ⟨hx, hy⟩ := pixelOutside_eq_false.1 (Bool.eq_false_iff.2 hin)
      split at h
      · cases h
      · rename_i b hb
        obtain ⟨hlt, rfl⟩ := bufRead_eq_ok hb
        exact done_eq_next h ▸ .readPixel x y hx hy hlt
  | clear => exact done_eq_next h ▸ .cleared
  | readByte idx =>
    simp only [exec, execReadByte] at h
    split at h
    · rename_i hout
      exact fail_eq_next h ▸ .rejected _ _ (.inl hout) (.inl rfl)
    · rename_i hin
      rw [bufRead_of_lt (Nat.lt_of_not_le hin)] at h
      exact done_eq_next h ▸ .readByte idx (Nat.lt_of_not_le hin)
  | computeWindow xs ys xe ye =>
    simp only [exec, execComputeWindow] at h
    split at h
    · rename_i code hcode
      obtain ⟨rfl, hbad⟩ := windowOf_eq_error.1 hcode
      exact fail_eq_next h ▸ .rejected _ _ (.inl hbad) (.inr rfl)
    · rename_i w hw
      exact done_eq_next h ▸ .latchedWindow xs ys xe ye w hw
  | flushAll =>
    obtain ⟨hl, h⟩ := configured_of_next h
    split at h
    · rename_i code hcode
      obtain ⟨rfl, -⟩ := windowOf_eq_error.1 hcode
      refine fail_eq_next h ▸ .rejected _ _ (.inr ⟨rfl, fun hlegal => ?_⟩) (.inr rfl)
      rw [windowOf_fullRegion hlegal] at hcode
      cases hcode
    · rename_i w hw
      obtain ⟨hlt, rfl⟩ := streamWindow_eq_next h
      exact .flushed _ _ w _ hl (.inl ⟨rfl, rfl, rfl⟩) hw hlt
  | flushRegion xs ys xe ye =>
    obtain ⟨hl, h⟩ := configured_of_next h
    split at h
    · rename_i code hcode
      obtain ⟨rfl, hbad⟩ := windowOf_eq_error.1 hcode
      exact fail_eq_next h ▸ .rejected _ _ (.inl hbad) (.inr rfl)
    · rename_i w hw
      obtain ⟨hlt, rfl⟩ := streamWindow_eq_next h
      exact .flushed _ _ w _ hl (.inr ⟨rfl, rfl⟩) hw hlt
  | sendCommand b =>
    obtain ⟨hl, h⟩ := configured_of_next h
    exact done_eq_next h ▸ .sent _ .low [b] hl (.inl ⟨b, rfl, rfl, rfl⟩)
  | sendData b =>
    obtain ⟨hl, h⟩ := configured_of_next h
    exact done_eq_next h ▸ .sent _ .high [b] hl (.inr (.inl ⟨b, rfl, rfl, rfl⟩))
  | configureLines =>
    cases hl : s.lifecycle <;> simp only [exec, execConfigureLines, hl] at h
    · exact done_eq_next h ▸ .configured hl
    · cases h
    · cases h
  | powerOn =>
    cases hl : s.lifecycle <;> simp only [exec, execPowerOn, hl] at h
    · cases h
    · split at h
      · rename_i cmds hv
        rw [powerOn_segments] at h
        exact done_eq_next h ▸ .poweredOn cmds hl hv
      · rename_i hv
        exact fail_eq_next h ▸ .poweredOnUnsupported hl hv
    · cases h
  | setContrast v =>
    obtain ⟨hl, h⟩ := configured_of_next h
    exact done_eq_next h ▸ .sent _ .low [s.config.cmdContrast, v] hl (.inr (.inr ⟨v, rfl, rfl, rfl⟩))

/-- What a step can do: nothing when no request is on the port, or one request's effect on the state without it. -/
theorem step_cases {s t : State} (h : step s = .next t) :
    (s.requests = [] ∧ t = s)
      ∨ ∃ w rest i, s.requests = w :: rest ∧ decode w = .ok i ∧ exec i (withRequests rest s) = .next t
        ∧ Effect (withRequests rest s) i t := by
  unfold step at h
  split at h
  · cases h
  · split at h
    · rename_i hreq
      have hnil : s.requests = [] := by
        unfold takeRequest at hreq
        split at hreq
        · assumption
        · cases hreq
      exact .inl ⟨hnil, (Host.Outcome.next.inj h).symm⟩
    · rename_i w u hreq
      unfold takeRequest at hreq
      split at hreq
      · cases hreq
      · rename_i w' rest hcons
        obtain ⟨rfl, rfl⟩ := Prod.mk.inj (Option.some.inj hreq)
        split at h
        · cases h
        · rename_i i hi
          exact .inr ⟨w', rest, i, hcons, hi, h, exec_effect h⟩

end Sys2Proof.Machine
end

