-- ==== Sys2Proof/Laws/Segments.lean ====
section
/-! SUPPORT. What a list of transactions and settle waits keeps: idle lines, the order on the bus, and which bytes it
latches (R145 to R150). -/

namespace Sys2Proof.Machine

/-- The bytes of a segment, as the controller latches them. -/
def Segment.latches : Segment → List Latched
  | .frames dc bytes => bytes.map fun b => ⟨kindOf dc, some b⟩
  | .settle => []

theorem segmentEvents_cons (g : Segment) (gs : List Segment) :
    segmentEvents (g :: gs) = g.events ++ segmentEvents gs := rfl

theorem LinesIdle.segment {c : Config} {l : Lines} (h : LinesIdle c l) (g : Segment) :
    LinesIdle c (l.applyAll g.events) := by
  cases g with
  | frames dc bytes => exact h.frames dc bytes
  | settle => exact h

theorem LinesIdle.segments {c : Config} {l : Lines} (h : LinesIdle c l) (gs : List Segment) :
    LinesIdle c (l.applyAll (segmentEvents gs)) := by
  induction gs generalizing l with
  | nil => exact h
  | cons g gs ih =>
    rw [segmentEvents_cons, Lines.applyAll_append]
    exact ih (h.segment g)

/-- The controller latches the bytes of the transactions, in order, and nothing else (R148). -/
theorem latchedFrom_segments {c : Config} {l : Lines} (h : LinesIdle c l) (gs : List Segment) :
    latchedFrom l (segmentEvents gs) = gs.flatMap Segment.latches := by
  induction gs generalizing l with
  | nil => rfl
  | cons g gs ih =>
    rw [segmentEvents_cons, latchedFrom_append, ih (h.segment g), List.flatMap_cons]
    cases g with
    | frames dc bytes => rw [Segment.events, latchedFrom_frames h]; rfl
    | settle => rfl

theorem busInOrder_segments {c : Config} {l : Lines} (h : LinesIdle c l) (gs : List Segment) :
    busInOrder l (segmentEvents gs) = true := by
  induction gs generalizing l with
  | nil => rfl
  | cons g gs ih =>
    rw [segmentEvents_cons, busInOrder_append, ih (h.segment g), Bool.and_true]
    cases g with
    | frames dc bytes => exact busInOrder_frames h dc bytes
    | settle => simp [Segment.events, busInOrder, eventInOrder, h.csHigh]

theorem rdLow_not_mem_segments (gs : List Segment) : BusEvent.set .rd .low ∉ segmentEvents gs := by
  intro h
  obtain ⟨g, -, he⟩ := List.mem_flatMap.1 h
  cases g with
  | frames dc bytes => exact rdLow_not_mem_frames dc bytes he
  | settle => simp [Segment.events] at he

theorem latch_not_mem_segments (v : Level) (gs : List Segment) : BusEvent.set .latch v ∉ segmentEvents gs := by
  intro h
  obtain ⟨g, -, he⟩ := List.mem_flatMap.1 h
  cases g with
  | frames dc bytes => exact latch_not_mem_frames v dc bytes he
  | settle => simp [Segment.events] at he

/-! ### What a request appends -/

/-- A state whose trace and lines are those of `s` after the events of the segments. -/
def Appends (s t : State) (gs : List Segment) : Prop :=
  t.trace = s.trace ++ segmentEvents gs ∧ t.lines = s.lines.applyAll (segmentEvents gs)

theorem appends_nil {s t : State} (htrace : t.trace = s.trace) (hlines : t.lines = s.lines) : Appends s t [] :=
  ⟨by rw [htrace]; exact (List.append_nil _).symm, hlines⟩

theorem appends_emit {s u : State} (htrace : u.trace = s.trace) (hlines : u.lines = s.lines) (gs : List Segment)
    (code : Status) (d : ResponseData) : Appends s (respond code d (emitAll (segmentEvents gs) u)) gs :=
  ⟨by rw [respond_trace, emitAll_trace, htrace], by rw [respond_lines, emitAll_lines, hlines]⟩

theorem appends_emit_enter {s : State} (gs : List Segment) (l : Lifecycle) (code : Status) (d : ResponseData) :
    Appends s (respond code d (enter l (emitAll (segmentEvents gs) s))) gs :=
  ⟨by rw [respond_trace, enter_trace, emitAll_trace], by rw [respond_lines, enter_lines, emitAll_lines]⟩

theorem appends_emit_mark {s : State} (gs : List Segment) (l : Lifecycle) (code : Status) (d : ResponseData) :
    Appends s (respond code d (markOrientation (enter l (emitAll (segmentEvents gs) s)))) gs :=
  ⟨by rw [respond_trace, markOrientation_trace, enter_trace, emitAll_trace],
    by rw [respond_lines, markOrientation_lines, enter_lines, emitAll_lines]⟩

theorem rejected_ne {s : State} {i : Instr} {code : Status}
    (h : causeOf s.config i code ∨ (i = .flushAll ∧ s.config.legal ≠ true))
    (hcode : code = .outOfBounds ∨ code = .wrongPosition) : i ≠ .configureLines ∧ i ≠ .powerOn := by
  constructor
  · rintro rfl
    rcases hcode with rfl | rfl <;> simp [causeOf, boundsCause, regionCause] at h
  · rintro rfl
    rcases hcode with rfl | rfl <;> simp [causeOf, boundsCause, regionCause] at h

/-- Every request but CONFIGURE_LINES appends transactions and settle waits, and none before the lines are configured. -/
theorem Effect.appends {s t : State} {i : Instr} (h : Effect s i t) (hi : i ≠ .configureLines) :
    ∃ gs, Appends s t gs ∧ (gs = [] ∨ s.lifecycle ≠ .uninitialized) := by
  cases h with
  | rejected _ code _ _ => exact ⟨[], appends_nil rfl rfl, .inl rfl⟩
  | wrote x y level _ _ _ => exact ⟨[], appends_nil rfl rfl, .inl rfl⟩
  | readPixel x y _ _ _ => exact ⟨[], appends_nil rfl rfl, .inl rfl⟩
  | cleared => exact ⟨[], appends_nil rfl rfl, .inl rfl⟩
  | readByte idx _ => exact ⟨[], appends_nil rfl rfl, .inl rfl⟩
  | latchedWindow xs ys xe ye w _ => exact ⟨[], appends_nil rfl rfl, .inl rfl⟩
  | flushed _ r w is hl _ _ _ => exact ⟨_, appends_emit (latchWindow_trace w s) (latchWindow_lines w s) _ _ _, .inr hl⟩
  | sent _ dc bytes hl _ => exact ⟨_, appends_emit rfl rfl _ _ _, .inr hl⟩
  | configured _ => exact absurd rfl hi
  | poweredOn cmds hl _ => exact ⟨_, appends_emit_enter _ _ _ _, .inr (by rw [hl]; decide)⟩
  | poweredOnUnsupported hl _ => exact ⟨_, appends_emit_mark _ _ _ _, .inr (by rw [hl]; decide)⟩

/-- CONFIGURE_LINES appends its twelve events. -/
theorem Effect.configures {s t : State} (h : Effect s .configureLines t) :
    s.lifecycle = .uninitialized ∧ t.trace = s.trace ++ configureEvents s.config
      ∧ t.lines = s.lines.applyAll (configureEvents s.config) := by
  generalize hi : Instr.configureLines = i at h
  cases h with
  | rejected _ code hc hcode => exact absurd hi.symm (rejected_ne hc hcode).1
  | flushed _ r w is hl hcase _ _ => rcases hcase with ⟨rfl, -, -⟩ | ⟨rfl, -⟩ <;> cases hi
  | sent _ dc bytes hl hcase => rcases hcase with ⟨_, rfl, -, -⟩ | ⟨_, rfl, -, -⟩ | ⟨_, rfl, -, -⟩ <;> cases hi
  | configured hl => exact ⟨hl, rfl, rfl⟩
  | _ => cases hi

end Sys2Proof.Machine
end

