-- ==== Sys2Proof/Laws/Invariant.lean ====
section
/-! SUPPORT. Each shared operation keeps the invariant of the block. -/

namespace Sys2Proof.Machine.State.BlockInv

variable {s : State}

/-- Ending a request touches nothing the block's invariant speaks of. -/
theorem respond (h : s.BlockInv) (code : Status) (d : ResponseData) : (Machine.respond code d s).BlockInv :=
  { legal := h.legal, bufCanonical := h.bufCanonical, bufInRange := h.bufInRange, colOrdered := h.colOrdered
    colInRange := h.colInRange, rowOrdered := h.rowOrdered, rowInRange := h.rowInRange
    linesReplay := h.linesReplay, quiet := h.quiet, idle := h.idle, rdNeverLow := h.rdNeverLow
    latchOnlyIdle := h.latchOnlyIdle, latchedDriven := h.latchedDriven, orientBeforeOn := h.orientBeforeOn
    orientInOn := h.orientInOn }

/-- Taking a request off the port touches nothing the block's invariant speaks of. -/
theorem withRequests (h : s.BlockInv) (ws : List Word) : (Machine.withRequests ws s).BlockInv :=
  { legal := h.legal, bufCanonical := h.bufCanonical, bufInRange := h.bufInRange, colOrdered := h.colOrdered
    colInRange := h.colInRange, rowOrdered := h.rowOrdered, rowInRange := h.rowInRange
    linesReplay := h.linesReplay, quiet := h.quiet, idle := h.idle, rdNeverLow := h.rdNeverLow
    latchOnlyIdle := h.latchOnlyIdle, latchedDriven := h.latchedDriven, orientBeforeOn := h.orientBeforeOn
    orientInOn := h.orientInOn }

/-- A canonical buffer inside BUF_LEN may be stored. -/
theorem storeBuffer (h : s.BlockInv) {m : Memory} (hwf : m.wf = true)
    (hrange : ∀ cell ∈ m, cell.1 < s.config.bufLen) : (Machine.storeBuffer m s).BlockInv :=
  { legal := h.legal, bufCanonical := hwf, bufInRange := hrange, colOrdered := h.colOrdered
    colInRange := h.colInRange, rowOrdered := h.rowOrdered, rowInRange := h.rowInRange
    linesReplay := h.linesReplay, quiet := h.quiet, idle := h.idle, rdNeverLow := h.rdNeverLow
    latchOnlyIdle := h.latchOnlyIdle, latchedDriven := h.latchedDriven, orientBeforeOn := h.orientBeforeOn
    orientInOn := h.orientInOn }

/-- A byte may be written at any existing index. -/
theorem write (h : s.BlockInv) {i : Nat} (hi : i < s.config.bufLen) (v : Byte) :
    (Machine.storeBuffer (s.buf.write i v) s).BlockInv := by
  refine h.storeBuffer (Memory.wf_write i v h.bufCanonical) fun cell hcell => ?_
  rcases Memory.mem_write hcell with rfl | hmem
  · exact hi
  · exact h.bufInRange cell hmem

/-- A window the window function computed may be latched. -/
theorem latchWindow (h : s.BlockInv) {r : Region} {w : Window} (hw : windowOf s.config r = .ok w) :
    (Machine.latchWindow w s).BlockInv := by
  obtain ⟨hcol, hcols, hrow, hrows⟩ := window_range h.legal hw
  exact
    { legal := h.legal, bufCanonical := h.bufCanonical, bufInRange := h.bufInRange, colOrdered := hcol
      colInRange := hcols, rowOrdered := hrow, rowInRange := hrows
      linesReplay := h.linesReplay, quiet := h.quiet, idle := h.idle, rdNeverLow := h.rdNeverLow
      latchOnlyIdle := h.latchOnlyIdle, latchedDriven := h.latchedDriven, orientBeforeOn := h.orientBeforeOn
      orientInOn := h.orientInOn }

/-- Transactions and settle waits may be emitted once the lines are configured. -/
theorem emitSegments (h : s.BlockInv) (hl : s.lifecycle ≠ .uninitialized) (gs : List Segment) :
    (emitAll (segmentEvents gs) s).BlockInv where
  legal := h.legal
  bufCanonical := h.bufCanonical
  bufInRange := h.bufInRange
  colOrdered := h.colOrdered
  colInRange := h.colInRange
  rowOrdered := h.rowOrdered
  rowInRange := h.rowInRange
  linesReplay := by rw [emitAll_lines, emitAll_trace, Lines.applyAll_append, ← h.linesReplay]
  quiet := fun hq => absurd hq hl
  idle := fun _ => (h.idle hl).segments gs
  rdNeverLow := by
    rw [emitAll_trace, List.mem_append]
    exact fun hmem => hmem.elim h.rdNeverLow (rdLow_not_mem_segments gs)
  latchOnlyIdle := fun v hmem => by
    rw [emitAll_trace, List.mem_append] at hmem
    exact hmem.elim (h.latchOnlyIdle v) fun hnew => absurd hnew (latch_not_mem_segments v gs)
  latchedDriven := fun b hb => by
    rw [emitAll_trace, latched, latchedFrom_append, ← h.linesReplay, latchedFrom_segments (h.idle hl),
      List.mem_append] at hb
    rcases hb with hb | hb
    · exact h.latchedDriven b hb
    · obtain ⟨g, -, hg⟩ := List.mem_flatMap.1 hb
      cases g with
      | frames dc bytes => obtain ⟨c, -, rfl⟩ := List.mem_map.1 hg; rfl
      | settle => cases hg
  orientBeforeOn := h.orientBeforeOn
  orientInOn := h.orientInOn

/-- The lines may be configured in Uninitialized (R180). -/
theorem configure (h : s.BlockInv) (hl : s.lifecycle = .uninitialized) :
    (enter .configuring (emitAll (configureEvents s.config) s)).BlockInv := by
  have htrace : s.trace = [] := h.quiet hl
  have hlines : s.lines = .undriven := by rw [h.linesReplay, htrace]; rfl
  exact
    { legal := h.legal, bufCanonical := h.bufCanonical, bufInRange := h.bufInRange, colOrdered := h.colOrdered
      colInRange := h.colInRange, rowOrdered := h.rowOrdered, rowInRange := h.rowInRange
      linesReplay := by
        rw [enter_lines, enter_trace, emitAll_lines, emitAll_trace, hlines, htrace]
        rfl
      quiet := fun hq => by cases hq
      idle := fun _ => linesIdle_configure s.config s.lines
      rdNeverLow := by simp [htrace, configureEvents]
      latchOnlyIdle := by simp [htrace, configureEvents]
      latchedDriven := by simp [htrace, latched, latchedFrom_configure]
      orientBeforeOn := fun _ => h.orientBeforeOn (by rw [hl]; decide)
      orientInOn := fun hon => by cases hon }

/-- On may be entered with ORIENT_UNDEF as the variant table says (R25, R183). -/
theorem enterOn (h : s.BlockInv) (hl : s.lifecycle ≠ .uninitialized)
    (ho : s.orientUndef = true ↔ s.config.variantCommands = none) : (enter .on s).BlockInv :=
  { legal := h.legal, bufCanonical := h.bufCanonical, bufInRange := h.bufInRange, colOrdered := h.colOrdered
    colInRange := h.colInRange, rowOrdered := h.rowOrdered, rowInRange := h.rowInRange
    linesReplay := h.linesReplay, quiet := fun hq => (by cases hq), idle := fun _ => h.idle hl
    rdNeverLow := h.rdNeverLow, latchOnlyIdle := h.latchOnlyIdle, latchedDriven := h.latchedDriven
    orientBeforeOn := fun hon => absurd rfl hon, orientInOn := fun _ => ho }

/-- On may be entered with ORIENT_UNDEF set when the variant has no entry (R25, R183). -/
theorem enterOnMarked (h : s.BlockInv) (hl : s.lifecycle ≠ .uninitialized) (hv : s.config.variantCommands = none) :
    (markOrientation (enter .on s)).BlockInv :=
  { legal := h.legal, bufCanonical := h.bufCanonical, bufInRange := h.bufInRange, colOrdered := h.colOrdered
    colInRange := h.colInRange, rowOrdered := h.rowOrdered, rowInRange := h.rowInRange
    linesReplay := h.linesReplay, quiet := fun hq => (by cases hq), idle := fun _ => h.idle hl
    rdNeverLow := h.rdNeverLow, latchOnlyIdle := h.latchOnlyIdle, latchedDriven := h.latchedDriven
    orientBeforeOn := fun hon => absurd rfl hon, orientInOn := fun _ => ⟨fun _ => hv, fun _ => rfl⟩ }

/-- A block whose invariant holds meets the whole invariant once a request has ended. -/
theorem inv_respond (h : s.BlockInv) {code : Status} {d : ResponseData}
    (hc : code = .unsupportedVariant → s.orientUndef = true) : (Machine.respond code d s).Inv :=
  { h.respond code d with
    statusOrient := hc
    responseCurrent := fun _ => ⟨d, reports_respond code d s⟩ }

end Sys2Proof.Machine.State.BlockInv
end

