-- ==== Sys2Proof/Laws/PerInstr.lean ====
section
/-! SUPPORT. The family `AssemblerForm`: how R81 writes a request determines the request. -/

namespace Sys2Proof.Laws.AssemblerForm

/-- The written form of a request is well formed, and is written for that request and no other. -/
def Statement (i : Instr) : Prop := i.toLine.wellFormed = true ∧ i.toLine.toInstr = some i

theorem byte_fits (b : Byte) : fitsByte b.toNat = true := decide_eq_true b.isLt

theorem index_fits (i : Index) : fitsIndex i.toNat = true := decide_eq_true i.isLt

/-- A well-formed written form is enough: the operands come back by their own widths. -/
theorem of_wellFormed {i : Instr} (h : i.toLine.wellFormed = true) : Statement i := by
  refine ⟨h, ?_⟩
  unfold SourceLine.toInstr
  rw [if_pos h]
  cases i <;> simp [Instr.toLine]

theorem setPixel (x y level : Byte) : Statement (.setPixel x y level) :=
  of_wellFormed (by simp [Instr.toLine, SourceLine.wellFormed, byte_fits])

theorem getPixel (x y : Byte) : Statement (.getPixel x y) :=
  of_wellFormed (by simp [Instr.toLine, SourceLine.wellFormed, byte_fits])

theorem clear : Statement .clear := of_wellFormed rfl

theorem readByte (idx : Index) : Statement (.readByte idx) := of_wellFormed (index_fits idx)

theorem computeWindow (xs ys xe ye : Byte) : Statement (.computeWindow xs ys xe ye) :=
  of_wellFormed (by simp [Instr.toLine, SourceLine.wellFormed, byte_fits])

theorem flushAll : Statement .flushAll := of_wellFormed rfl

theorem flushRegion (xs ys xe ye : Byte) : Statement (.flushRegion xs ys xe ye) :=
  of_wellFormed (by simp [Instr.toLine, SourceLine.wellFormed, byte_fits])

theorem sendCommand (b : Byte) : Statement (.sendCommand b) := of_wellFormed (byte_fits b)

theorem sendData (b : Byte) : Statement (.sendData b) := of_wellFormed (byte_fits b)

theorem configureLines : Statement .configureLines := of_wellFormed rfl

theorem powerOn : Statement .powerOn := of_wellFormed rfl

theorem setContrast (v : Byte) : Statement (.setContrast v) := of_wellFormed (byte_fits v)

end Sys2Proof.Laws.AssemblerForm
end

