-- ==== Sys2Proof/Tests/Slice0.lean ====
section
/-! SUPPORT. Tests. Expected results are the spec's own: 30_encoding.md R83 and the vectors of 95_test_vectors.md, cited
by their ids. The witnesses at the end show that the hypotheses of the statements are met together. -/

namespace Sys2Proof.Tests

open Sys2Proof.Machine

/-! ### The configurations of 95_test_vectors.md -/

/-- REF (00_scope.md section 3). The spec gives REF no SETTLE_DELAY: the 0 here is the model's, DESIGN CHOICE, log
entry 11. No rule reads it, so no test depends on it. -/
def ref : Config where
  width := 128
  height := 128
  variant := 0x01
  variantTable := [(0x01, [0xA0, 0x51, 0xA1, 0x00])]
  cmdSetColumn := 0x15
  cmdSetRow := 0x75
  cmdPowerOn := 0xAF
  cmdNormalDisplay := 0xA4
  cmdContrast := 0x81
  settleDelay := 0
  dcIdle := .high
  latchIdle := .high
  dIdle := 0x00
  transport := .parallel

/-- REF16. -/
def ref16 : Config := { ref with width := 16, height := 16 }

/-- REF-W64. -/
def refW64 : Config := { ref with width := 64 }

/-- REF-V2 at 16 by 16, a variant with no entry. -/
def ref16V2 : Config := { ref16 with variant := 0x02 }

/-- A block just constructed. -/
def fresh (c : Config) : State := .ofConfig c

/-- The state a request leaves, or the same state when it leaves none. -/
def after (i : Instr) (s : State) : State :=
  match exec i s with
  | .next t => t
  | _ => s

/-- A block in Configuring. -/
def configured (c : Config) : State := after .configureLines (fresh c)

/-- A block in On. -/
def poweredOn (c : Config) : State := after .powerOn (configured c)

/-- The response word a request returns. -/
def answer (i : Instr) (s : State) : Option Word :=
  match exec i s with
  | .next t => t.response
  | _ => none

/-- Why a request is refused. -/
def refusalOf (i : Instr) (s : State) : Option Refusal :=
  match exec i s with
  | .refused r => some r
  | _ => none

/-- The events a request appends. -/
def eventsOf (i : Instr) (s : State) : List BusEvent := (after i s).trace.drop s.trace.length

/-- The bytes the controller latches of a request. -/
def latchedOf (i : Instr) (s : State) : List Latched := latchedFrom s.lines (eventsOf i s)

/-- `c:XX`, a latched command byte. -/
def c (b : Byte) : Latched := ⟨.command, some b⟩

/-- `d:XX`, a latched data byte. -/
def d (b : Byte) : Latched := ⟨.data, some b⟩

/-! ### Well-formed lines: an ill-formed operand for each check (R81) -/

theorem test_wellFormed_largest_operands : (SourceLine.setpix 255 255 255).wellFormed = true
    ∧ (SourceLine.rdbyte 65535).wellFormed = true ∧ (SourceLine.flushr 255 255 255 255).wellFormed = true := by decide

theorem test_wellFormed_refuses_setpix : (SourceLine.setpix 256 0 0).wellFormed = false
    ∧ (SourceLine.setpix 0 256 0).wellFormed = false ∧ (SourceLine.setpix 0 0 256).wellFormed = false := by decide

theorem test_wellFormed_refuses_getpix :
    (SourceLine.getpix 256 0).wellFormed = false ∧ (SourceLine.getpix 0 256).wellFormed = false := by decide

theorem test_wellFormed_refuses_rdbyte : (SourceLine.rdbyte 65536).wellFormed = false := by decide

theorem test_wellFormed_refuses_window : (SourceLine.window 256 0 0 0).wellFormed = false
    ∧ (SourceLine.window 0 256 0 0).wellFormed = false ∧ (SourceLine.window 0 0 256 0).wellFormed = false
    ∧ (SourceLine.window 0 0 0 256).wellFormed = false := by decide

theorem test_wellFormed_refuses_flushr : (SourceLine.flushr 256 0 0 0).wellFormed = false
    ∧ (SourceLine.flushr 0 256 0 0).wellFormed = false ∧ (SourceLine.flushr 0 0 256 0).wellFormed = false
    ∧ (SourceLine.flushr 0 0 0 256).wellFormed = false := by decide

theorem test_wellFormed_refuses_byte_operands : (SourceLine.cmd 256).wellFormed = false
    ∧ (SourceLine.data 256).wellFormed = false ∧ (SourceLine.contrast 256).wellFormed = false := by decide

/-- An operand out of range is an error, not a truncation (R81). -/
theorem test_out_of_range_is_an_error : (SourceLine.cmd 256).toInstr = none
    ∧ assembleText ref "cmd 0x100".toList = .error .operandOutOfRange := by decide

/-! ### Decoding: a word written out from R71 and R72 for every row, operands all different -/

theorem test_decode_setPixel : decode 0x0100000000332211#64 = .ok (.setPixel 0x11 0x22 0x33) := by decide

theorem test_decode_getPixel : decode 0x0200000000002211#64 = .ok (.getPixel 0x11 0x22) := by decide

theorem test_decode_clear : decode 0x0300000000000000#64 = .ok .clear := by decide

/-- Vector E8. -/
theorem test_decode_readByte : decode 0x0400000000001FFF#64 = .ok (.readByte 8191) := by decide

theorem test_decode_computeWindow :
    decode 0x0500000044332211#64 = .ok (.computeWindow 0x11 0x22 0x33 0x44) := by decide

theorem test_decode_flushAll : decode 0x0600000000000000#64 = .ok .flushAll := by decide

/-- R83: `flushr 3, 2, 6, 4`. -/
theorem test_decode_flushRegion : decode 0x0700000004060203#64 = .ok (.flushRegion 3 2 6 4) := by decide

theorem test_decode_sendCommand : decode 0x08000000000000AF#64 = .ok (.sendCommand 0xAF) := by decide

theorem test_decode_sendData : decode 0x090000000000005A#64 = .ok (.sendData 0x5A) := by decide

theorem test_decode_configureLines : decode 0x0A00000000000000#64 = .ok .configureLines := by decide

theorem test_decode_powerOn : decode 0x0B00000000000000#64 = .ok .powerOn := by decide

theorem test_decode_setContrast : decode 0x0C0000000000007F#64 = .ok (.setContrast 0x7F) := by decide

/-- Vectors E1 to E3. -/
theorem test_decode_reserved_opcodes : decode 0x0000000000000000#64 = .error .reservedOpcode
    ∧ decode 0x0D00000000000000#64 = .error .reservedOpcode
    ∧ decode 0xFF00000000000000#64 = .error .reservedOpcode := by decide

/-- Vectors E4 to E7. -/
theorem test_decode_reserved_bits : decode 0x0100000100000000#64 = .error .reservedBits
    ∧ decode 0x0100000001000000#64 = .error .reservedBits
    ∧ decode 0x0300000000000001#64 = .error .reservedBits
    ∧ decode 0x0800000000000100#64 = .error .reservedBits := by decide

theorem test_decodeTableWord : decodeTableWord 64 0x0700000004060203 = some (.flushRegion 3 2 6 4)
    ∧ decodeTableWord 64 0x0300000000000001 = none := by decide

/-- R82 and R81: a pseudo-instruction in a line with a comment. -/
theorem test_assemble_flushpix :
    assembleText ref "flushpix 3, 0 ; program 4, line 5".toList = .ok [0x0700000000030003#64] := by decide

/-! ### One step of each request -/

/-- Vector P5: buf[194] = 0x0B, `setpix 5, 3, 0xC`, then buf[194] = 0xCB. -/
theorem test_setPixel_odd_column :
    (after (.setPixel 5 3 0x0C) { fresh ref with buf := [(194, 0x0B)] }).buf = [(194, 0xCB)] := by decide

/-- Vectors P3 and P4: LEVEL is masked to four bits, not rejected. -/
theorem test_setPixel_masks_level : (after (.setPixel 127 127 0x1F) (fresh ref)).buf = [(8191, 0xF0)]
    ∧ (after (.setPixel 2 1 0x10) (fresh ref)).buf = [] := by decide

/-- Vector E10, with vector P12's pixel. -/
theorem test_getPixel_odd_column :
    answer (.getPixel 127 127) { poweredOn ref with buf := [(8191, 0xF0)] } = some 0x00000000000F0200#64 := by decide

/-- Vectors P13 and E12. -/
theorem test_getPixel_out_of_bounds : answer (.getPixel 128 0) (configured ref) = some 0x0000000000000101#64 := by
  decide

/-- Vector W9. -/
theorem test_clear : (after .clear { fresh ref with buf := [(0, 0xFA)] }).buf = [] := by decide

/-- Vectors P14 and P15. -/
theorem test_readByte : answer (.readByte 0) { fresh ref with buf := [(0, 0xFA)] } = some 0x0000000000FA0000#64
    ∧ answer (.readByte 8191) (fresh ref) = some 0x0000000000000000#64
    ∧ answer (.readByte 8192) (fresh ref) = some 0x0000000000000001#64 := by decide

/-- Vectors A2 and E11. -/
theorem test_computeWindow : answer (.computeWindow 3 2 6 4) (fresh ref) = some 0x0000040203010000#64 := by decide

/-- Vector A13: a failure keeps the window registers. -/
theorem test_computeWindow_failure_keeps_registers :
    windowData (after (.computeWindow 0 0 200 0) (after (.computeWindow 3 2 6 4) (fresh ref))) = ⟨1, 3, 2, 4⟩ := by
  decide

/-- Vectors A8 to A11: reversed regions, and y checked against HEIGHT only. -/
theorem test_windowOf_rejections : windowOf ref ⟨5, 0, 4, 0⟩ = .error .wrongPosition
    ∧ windowOf ref ⟨0, 9, 0, 8⟩ = .error .wrongPosition
    ∧ windowOf refW64 ⟨0, 100, 0, 100⟩ = .ok ⟨0, 0, 100, 100⟩
    ∧ windowOf refW64 ⟨100, 0, 100, 0⟩ = .error .wrongPosition := by decide

/-- Vector T1: the response and what is latched. -/
theorem test_flushAll :
    let s := { poweredOn ref16 with buf := [(0, 0x0F), (127, 0x70)] }
    answer .flushAll s = some 0x00000F0007000200#64
      ∧ latchedOf .flushAll s = [c 0x15, c 0x00, c 0x07, c 0x75, c 0x00, c 0x0F, d 0x0F]
          ++ List.replicate 126 (d 0x00) ++ [d 0x70] := by decide +kernel

/-- Vector T6. -/
theorem test_flushAll_uninitialized : refusalOf .flushAll (fresh ref) = some (.refuse .linesNotConfigured) := by decide

/-- Vector T2. -/
theorem test_flushRegion :
    latchedOf (.flushRegion 3 2 6 4) { poweredOn ref with buf :=
        [(129, 0x11), (130, 0x22), (131, 0x33), (193, 0x44), (194, 0x55), (195, 0x66), (257, 0x77), (258, 0x88),
          (259, 0x99)] }
      = [c 0x15, c 0x01, c 0x03, c 0x75, c 0x02, c 0x04, d 0x11, d 0x22, d 0x33, d 0x44, d 0x55, d 0x66, d 0x77, d 0x88,
          d 0x99] := by decide +kernel

/-- Vector W6. -/
theorem test_flushRegion_invalid : eventsOf (.flushRegion 0 0 128 0) (poweredOn ref) = []
    ∧ (after (.flushRegion 0 0 128 0) (poweredOn ref)).status = .wrongPosition := by decide

/-- Vector F1. -/
theorem test_sendCommand : eventsOf (.sendCommand 0xAF) (configured ref) =
    [.set .rd .high, .set .cs .low, .set .wr .high, .set .dc .low, .set .wr .low, .setD 0xAF, .set .wr .high,
      .set .cs .high] := by decide

/-- Vector F4. -/
theorem test_sendCommand_uninitialized :
    refusalOf (.sendCommand 0x15) (fresh ref) = some (.refuse .linesNotConfigured) := by decide

/-- Vector F2. -/
theorem test_sendData : latchedOf (.sendData 0xFF) (poweredOn ref) = [d 0xFF] := by decide

/-- Vector F3: the level changes of the second transaction. -/
theorem test_sendData_changes :
    let s := after (.sendCommand 0x00) (poweredOn ref)
    changesFrom s.lines (eventsOf (.sendData 0x00) s) =
      [.set .cs .low, .set .dc .high, .set .wr .low, .set .wr .high, .set .cs .high] := by decide

/-- Vector F5: the latch decoder on hand-made events. -/
theorem test_latchedFrom :
    let l := (configured ref).lines
    latchedFrom l [.set .cs .low, .setD 0x12, .set .wr .low, .set .wr .high, .set .cs .high] = [d 0x12]
      ∧ latchedFrom l [.set .wr .low, .set .wr .high] = []
      ∧ latchedFrom l [.set .cs .low, .set .wr .low, .setD 0x34, .set .wr .high] = [d 0x34] := by decide

/-- Vector L1. -/
theorem test_configureLines : answer .configureLines (fresh ref) = some 0x0000000000000100#64
    ∧ eventsOf .configureLines (fresh ref) =
      [.config .cs, .set .cs .high, .config .wr, .set .wr .high, .config .rd, .set .rd .high, .config .dc,
        .set .dc .high, .config .latch, .set .latch .high, .config .d, .setD 0x00] := by decide

/-- Vector L2. -/
theorem test_configureLines_again : refusalOf .configureLines (configured ref) = some (.refuse .alreadyConfigured) := by
  decide

/-- Vector L3. -/
theorem test_powerOn : answer .powerOn (configured ref) = some 0x0000000000000200#64
    ∧ (eventsOf .powerOn (configured ref)).length = 49
    ∧ (eventsOf .powerOn (configured ref))[8]? = some .settle
    ∧ latchedOf .powerOn (configured ref) = [c 0xAF, c 0xA4, c 0xA0, c 0x51, c 0xA1, c 0x00] := by decide +kernel

/-- Vectors L4 and E13. -/
theorem test_powerOn_unsupported : answer .powerOn (configured ref16V2) = some 0x0000000000000603#64
    ∧ (eventsOf .powerOn (configured ref16V2)).length = 17
    ∧ latchedOf .powerOn (configured ref16V2) = [c 0xAF, c 0xA4] := by decide +kernel

/-- Vector L7. -/
theorem test_setContrast_unsupported : answer (.setContrast 0x7F) (poweredOn ref16V2) = some 0x0000000000000600#64
    ∧ latchedOf (.setContrast 0x7F) (poweredOn ref16V2) = [c 0x81, c 0x7F] := by decide

/-- Program 1 of 95_test_vectors.md, its word 3 presented at reset: one step takes and runs it. -/
theorem test_step_of_fetched_word :
    (match step ((fresh ref).withFetchWord 64 0x01000000000F0001) with
      | .next t => t.buf
      | _ => []) = [(0, 0xF0)] := by decide

/-! ### Witnesses: states and operands that meet the hypotheses of the statements -/

theorem test_ref16_fresh_inv : (fresh ref16).Inv := by
  constructor
  · constructor <;> simp [fresh, State.ofConfig, Lines.undriven, latched, latchedFrom] <;> decide
  · simp [fresh, State.ofConfig]
  · simp [fresh, State.ofConfig]

theorem test_ref16_configured_inv : (configured ref16).Inv :=
  (test_ref16_fresh_inv.configure rfl).inv_respond (by decide)

theorem test_ref16_on_inv : (poweredOn ref16).Inv := by
  have h := test_ref16_configured_inv.toBlockInv.emitSegments (by decide)
    [.frames .low [0xAF], .settle, .frames .low [0xA4, 0xA0, 0x51, 0xA1, 0x00]]
  exact (h.enterOn (by decide) (by decide)).inv_respond (code := .ok) (d := .zero) (by decide)

theorem test_ref16V2_fresh_inv : (fresh ref16V2).Inv := by
  constructor
  · constructor <;> simp [fresh, State.ofConfig, Lines.undriven, latched, latchedFrom] <;> decide
  · simp [fresh, State.ofConfig]
  · simp [fresh, State.ofConfig]

theorem test_ref16V2_configured_inv : (configured ref16V2).Inv :=
  (test_ref16V2_fresh_inv.configure rfl).inv_respond (by decide)

/-- Whether a request ends in a next state. -/
def completes (i : Instr) (s : State) : Bool :=
  match exec i s with
  | .next _ => true
  | _ => false

theorem exec_eq_after {i : Instr} {s : State} (h : completes i s = true) : exec i s = .next (after i s) := by
  unfold completes at h
  unfold after
  split at h <;> simp_all

/-- EveryRequestHasOneWord. -/
theorem test_witness_decodes : decode 0x0100000000FFFFFF#64 = .ok (.setPixel 255 255 255)
    ∧ decode 0x0C000000000000FF#64 = .ok (.setContrast 255) := by decide

/-- ReservedWordsAreRefused: a presented word for each clause, at the boundaries of OP and of the named bits. -/
theorem test_witness_reserved_words :
    let presented := fun w : Word => present w (fresh ref16)
    (∀ w : Word, (presented w).refused = none ∧ (presented w).requests = [w])
      ∧ step (presented 0x0000000000000000#64) = .refused (.refuse .reservedOpcode)
      ∧ step (presented 0x0D00000000000000#64) = .refused (.refuse .reservedOpcode)
      ∧ step (presented 0x0100000001000000#64) = .refused (.refuse .reservedBits)
      ∧ step (presented 0x0C00000000000100#64) = .refused (.refuse .reservedBits) :=
  ⟨fun _ => ⟨rfl, rfl⟩, rfl, rfl, rfl, rfl⟩

/-- StepRunsTheDecodedRequest, with a step that completes. -/
theorem test_witness_step :
    let s := present 0x0A00000000000000#64 (fresh ref16)
    s.refused = none ∧ s.requests = [0x0A00000000000000#64] ∧ decode 0x0A00000000000000#64 = .ok .configureLines
      ∧ s.Inv ∧ step s = .next (configured ref16) := by
  refine ⟨rfl, rfl, by decide, ?_, rfl⟩
  exact { test_ref16_fresh_inv.toBlockInv.withRequests _ with
    statusOrient := by simp [present, withRequests, fresh, State.ofConfig]
    responseCurrent := by simp [present, withRequests, fresh, State.ofConfig] }

/-- BlockWaitsForTheHost, StepKeepsTheInvariant, ConfigurationIsImmutable, TraceIsAppendOnly: a step that waits. -/
theorem test_witness_wait : (fresh ref16).refused = none ∧ (fresh ref16).requests = []
    ∧ step (fresh ref16) = .next (fresh ref16) := ⟨rfl, rfl, rfl⟩

/-- RefusedMarkIsSticky: a refused step, and a marked state. -/
theorem test_witness_refused :
    step (present 0 (fresh ref16)) = .refused (.refuse .reservedOpcode)
      ∧ (advance (present 0 (fresh ref16))).refused = some .reservedOpcode
      ∧ step (advance (present 0 (fresh ref16))) = .refused (.refuse .reservedOpcode) := ⟨rfl, rfl, rfl⟩

/-- Every statement about a legal configuration: the smallest and the largest one. -/
theorem test_witness_legal : ref16.legal = true ∧ ref.legal = true := by decide

/-- IllegalConfigurationBuildsNoBlock: both clauses at the bounds of R6, R7 and R13. -/
theorem test_witness_configurations :
    construct ref16 = .next (fresh ref16) ∧ construct ref = .next (fresh ref)
      ∧ (([{ ref with width := 14 }, { ref with width := 130 }, { ref with width := 17 }, { ref with height := 15 },
          { ref with height := 129 }, { ref with transport := .serialVariantA }] : List Config).all
          fun c => !c.legal) = true := ⟨rfl, rfl, by decide⟩

/-- RequestsCompleteAsTheLifecycleTableSays: a refused and a completing request in each lifecycle state. -/
theorem test_witness_lifecycle :
    lifecycleRefusal .powerOn (fresh ref16).lifecycle = some .linesNotConfigured
      ∧ lifecycleRefusal .configureLines (configured ref16).lifecycle = some .alreadyConfigured
      ∧ lifecycleRefusal .powerOn (poweredOn ref16).lifecycle = some .alreadyOn
      ∧ lifecycleRefusal .clear (fresh ref16).lifecycle = none
      ∧ lifecycleRefusal .powerOn (configured ref16).lifecycle = none
      ∧ lifecycleRefusal (.setContrast 0) (poweredOn ref16).lifecycle = none := by decide

/-- StatusCodesFollowTheirCauses, FailuresArePrecise, ResponsesFollowTheTable, OrientationMarkIsSticky: a request that
ends with each of the four codes. -/
theorem test_witness_statuses :
    let ends := fun i s code => completes i s = true ∧ (after i s).status = code
    ends .clear (fresh ref16) .ok ∧ ends (.setPixel 16 0 1) (fresh ref16) .outOfBounds
      ∧ ends (.readByte 128) (fresh ref16) .outOfBounds ∧ ends (.computeWindow 0 0 0 16) (fresh ref16) .wrongPosition
      ∧ ends .powerOn (configured ref16V2) .unsupportedVariant := by decide

/-- LifecycleOnlyAdvances and OrientationMarkIsSticky: a request of each clause. -/
theorem test_witness_transitions :
    completes .configureLines (fresh ref16) = true ∧ completes .powerOn (configured ref16) = true
      ∧ completes (.sendData 0xFF) (poweredOn ref16) = true
      ∧ (after .powerOn (configured ref16V2)).orientUndef = true := by decide

/-- The statements about a next state of any request: the hypothesis `exec i s = .next t` is met with the invariant. -/
theorem test_witness_exec : (configured ref16).Inv
    ∧ exec (.sendCommand 0xAF) (configured ref16) = .next (after (.sendCommand 0xAF) (configured ref16)) :=
  ⟨test_ref16_configured_inv, exec_eq_after (by decide)⟩

/-- WindowRegistersHoldTheLastWindow: a window computed, a window refused, and a request that computes none. -/
theorem test_witness_windowRegion :
    (windowRegion ref16 (.flushRegion 0 0 15 15) = some ⟨0, 0, 15, 15⟩
        ∧ windowOf ref16 ⟨0, 0, 15, 15⟩ = .ok ⟨0, 7, 0, 15⟩)
      ∧ windowOf ref16 ⟨0, 0, 16, 15⟩ = .error .wrongPosition ∧ windowRegion ref16 .clear = none := by decide

/-- ReadsHaveNoSideEffect: a flush, and the same flush in a later state with the same buffer and other registers. -/
theorem test_witness_reads :
    let i := Instr.flushRegion 0 0 1 0
    let s := configured ref16
    let s' := after (.computeWindow 15 15 15 15) (poweredOn ref16)
    readsBuffer i = true ∧ exec i s = .next (after i s) ∧ s'.config = s.config ∧ s'.buf = (after i s).buf
      ∧ exec i s' = .next (after i s') :=
  ⟨rfl, exec_eq_after (by decide), by decide, by decide, exec_eq_after (by decide)⟩

/-- OnlySetPixelAndClearWriteTheBuffer. -/
theorem test_witness_no_write : writesBuffer (.readByte 127) = false
    ∧ exec (.readByte 127) (fresh ref16) = .next (after (.readByte 127) (fresh ref16)) :=
  ⟨rfl, exec_eq_after (by decide)⟩

/-- RequestsAppendBoundedlyManyEvents: POWER_ON and another request. -/
theorem test_witness_events : (configured ref16).Inv ∧ (poweredOn ref16).Inv
    ∧ exec .powerOn (configured ref16) = .next (after .powerOn (configured ref16))
    ∧ exec (.flushRegion 0 0 1 0) (poweredOn ref16) = .next (after (.flushRegion 0 0 1 0) (poweredOn ref16)) :=
  ⟨test_ref16_configured_inv, test_ref16_on_inv, exec_eq_after (by decide), exec_eq_after (by decide)⟩

/-- The pixel statements and ReadByteReturnsTheByte: the last coordinate, level and index in range and the first out of
range, with a second pixel in the same byte. -/
theorem test_witness_pixels : (fresh ref16).buf.wf = true ∧ (15 : Byte).toNat < ref16.width
    ∧ (15 : Byte).toNat < ref16.height ∧ ref16.width ≤ (16 : Byte).toNat ∧ ref16.height ≤ (16 : Byte).toNat
    ∧ (15 : Byte).toNat ≤ 15 ∧ ((14, 15) : Byte × Byte) ≠ (15, 15)
    ∧ (127 : Index).toNat < ref16.width * ref16.height / 2 ∧ ref16.width * ref16.height / 2 ≤ (128 : Index).toNat := by
  decide

/-- PixelMappingIsABijection: the last byte and nibble. -/
theorem test_witness_inverse : 127 < ref16.bufLen ∧ 2 * (127 % ref16.halfW) + 1 = 15 ∧ 127 / ref16.halfW = 15 := by
  decide

/-- ClearIsTheLoopInAnyOrder: the descending order, and a buffer that is not zero. -/
theorem test_witness_orders : ((List.range ref16.bufLen).reverse).Perm (List.range ref16.bufLen)
    ∧ Memory.wf [(127, 0x70)] = true ∧ ∀ cell ∈ ([(127, 0x70)] : Memory), cell.1 < ref16.bufLen :=
  ⟨List.reverse_perm _, by decide, by decide⟩

/-- ComputeWindowLatchesTheWindow, SuccessfulWindowsAreInRange, WindowPixelCoverage, StreamOrderIsRowByRow: windows of
one packed column, of the whole grid, of an odd XS and an even XE; and the last k of a stream. -/
theorem test_witness_windows : windowOf ref16 ⟨15, 15, 15, 15⟩ = .ok ⟨7, 7, 15, 15⟩
    ∧ windowOf ref16 ⟨1, 0, 2, 0⟩ = .ok ⟨0, 1, 0, 0⟩ ∧ windowOf ref16 ⟨0, 0, 15, 15⟩ = .ok ⟨0, 7, 0, 15⟩
    ∧ windowOf ref16 ⟨1, 0, 0, 0⟩ = .error .wrongPosition
    ∧ (windowIndices ref16 ⟨0, 7, 0, 15⟩)[127]? = some 127 := by decide

/-- FullRegionWindow and FlushAllIsTheFullRegionFlush: the smallest and the largest grid. -/
theorem test_witness_full_region : (15 : Byte).toNat = ref16.width - 1 ∧ (15 : Byte).toNat = ref16.height - 1
    ∧ (127 : Byte).toNat = ref.width - 1 ∧ (127 : Byte).toNat = ref.height - 1 := by decide

/-- SendCommandFramesEightEvents, SendDataFramesEightEvents, the flushes, PowerOnRunsTheSequence,
SetContrastSendsCommandAndValue: a state of each clause. -/
theorem test_witness_lifecycle_states : (fresh ref16).lifecycle = .uninitialized
    ∧ (configured ref16).lifecycle = .configuring ∧ (poweredOn ref16).lifecycle = .on := by decide

/-- TransactionsKeepTheOrdering and EveryRequestObeysTheBusOrder: a transaction of a request, and the places of its two
WR edges. -/
theorem test_witness_transaction : (configured ref16).Inv
    ∧ exec (.setContrast 0x7F) (configured ref16) = .next (after (.setContrast 0x7F) (configured ref16))
    ∧ (after (.setContrast 0x7F) (configured ref16)).trace
        = (configured ref16).trace ++ (frame .low 0x81 ++ frame .low 0x7F ++ [])
    ∧ frame .low 0x7F = (frame .low 0x7F).take 4 ++ BusEvent.set .wr .low :: (frame .low 0x7F).drop 5
    ∧ frame .low 0x7F = (frame .low 0x7F).take 6 ++ BusEvent.set .wr .high :: (frame .low 0x7F).drop 7
    ∧ (((configured ref16).lines.applyAll (frame .low 0x81)).applyAll ((frame .low 0x7F).take 6)).wr.level
        = some .low :=
  ⟨test_ref16_configured_inv, exec_eq_after (by decide), by decide, rfl, rfl, rfl⟩

/-- PowerOnRunsTheSequence and ResetLeavesTheTable: an entry, no entry, and a step after CONFIGURE_LINES. -/
theorem test_witness_entries :
    ref16.variantTable = [] ++ (ref16.variant, [0xA0, 0x51, 0xA1, 0x00]) :: [] ∧ ref16V2.variantCommands = none
      ∧ step (configured ref16) = .next (configured ref16) := ⟨rfl, rfl, rfl⟩

/-- TransactionLatchesItsByte. -/
theorem test_witness_idle : LinesIdle ref16 (configured ref16).lines := test_ref16_configured_inv.idle (by decide)

/-- FlushTransactionCounts and FlushRegionReachesTheController: a flush that succeeds and one that fails. -/
theorem test_witness_flush :
    exec (.flushRegion 0 0 15 15) (poweredOn ref16) = .next (after (.flushRegion 0 0 15 15) (poweredOn ref16))
      ∧ (after (.flushRegion 0 0 15 15) (poweredOn ref16)).status = .ok
      ∧ exec (.flushRegion 0 0 16 15) (poweredOn ref16) = .next (after (.flushRegion 0 0 16 15) (poweredOn ref16))
      ∧ (after (.flushRegion 0 0 16 15) (poweredOn ref16)).status ≠ .ok :=
  ⟨exec_eq_after (by decide +kernel), by decide +kernel, exec_eq_after (by decide), by decide⟩

/-- ConfigureLinesSetsIdleLevels, PowerOnReachesTheController, WrittenPixelReachesTheController: the invariant in every
lifecycle state. -/
theorem test_witness_invariant : (fresh ref16).Inv ∧ (configured ref16).Inv ∧ (poweredOn ref16).Inv
    ∧ (configured ref16V2).Inv :=
  ⟨test_ref16_fresh_inv, test_ref16_configured_inv, test_ref16_on_inv, test_ref16V2_configured_inv⟩

end Sys2Proof.Tests
end

/-! PROOFS. The family 00_scope: what a step does with the word on the port, the sticky REFUSED mark, and the derived
sizes. -/

namespace Sys2Proof

/-! ### The derived sizes (R14) -/

/-- HALF_W over the legal widths: 16 / 2 to 128 / 2. -/
theorem Config.halfW_bounds {c : Config} (h : c.legal = true) : 8 ≤ c.halfW ∧ c.halfW ≤ 64 := by
  obtain ⟨hmin, hmax, -⟩ := c.legal_iff.1 h
  rw [Config.halfW]
  constructor <;> omega

/-- BUF_LEN is HEIGHT rows of HALF_W bytes, so its bounds are the products of theirs. -/
theorem Config.bufLen_bounds {c : Config} (h : c.legal = true) : 128 ≤ c.bufLen ∧ c.bufLen ≤ 8192 := by
  obtain ⟨-, -, -, hmin, hmax, -⟩ := c.legal_iff.1 h
  obtain ⟨hhalf, hhalf'⟩ := Config.halfW_bounds h
  rw [Config.bufLen_eq h]
  exact ⟨Nat.mul_le_mul hmin hhalf, Nat.mul_le_mul hmax hhalf'⟩

/-- Settles O11: the bounds of BUF_LEN come from its rows, and the widths of the largest values from the bounds. -/
theorem derivedSizes : Obligations.DerivedSizes := by
  refine ⟨fun c h => ?_, fun c hw hh => ?_⟩
  · obtain ⟨-, -, -, -, hheight, -⟩ := c.legal_iff.1 h
    obtain ⟨hhalf, hhalf'⟩ := Config.halfW_bounds h
    obtain ⟨hlen, hlen'⟩ := Config.bufLen_bounds h
    exact ⟨rfl, rfl, hhalf, hhalf', hlen, hlen', by omega, by omega, by omega⟩
  · rw [Config.bufLen, hw, hh]

namespace Machine

/-! ### The step, case by case (R30, R70, R78) -/

theorem takeRequest_cons {s : State} {w : Word} {rest : List Word} (h : s.requests = w :: rest) :
    takeRequest s = some (w, withRequests rest s) := by
  simp only [takeRequest, h]

/-- A block whose REFUSED mark is set refuses with the reason it carries, whatever is on the port. -/
theorem step_of_refused {s : State} {r : RefusalReason} (h : s.refused = some r) :
    step s = .refused (.refuse r) := by
  simp only [step, h, refuse]

theorem step_of_decode_ok {s : State} {w : Word} {rest : List Word} {i : Instr} (hmark : s.refused = none)
    (hreq : s.requests = w :: rest) (hdec : decode w = .ok i) : step s = exec i (withRequests rest s) := by
  simp only [step, hmark, takeRequest_cons hreq, hdec]

/-- Settles O6: the state without the word is `withRequests rest s`. -/
theorem stepRunsTheDecodedRequest : Obligations.StepRunsTheDecodedRequest :=
  fun _ _ _ _ hmark hreq hdec => step_of_decode_ok hmark hreq hdec

/-! ### The REFUSED mark (R30, R205) -/

theorem advance_of_step_refused {s : State} {r : RefusalReason} (h : step s = .refused (.refuse r)) :
    advance s = markRefused r s := by
  simp only [advance, h]

/-- Marking a state with the reason it already carries changes nothing. -/
theorem markRefused_of_refused {s : State} {r : RefusalReason} (h : s.refused = some r) : markRefused r s = s := by
  rw [markRefused, ← h]

theorem construct_of_legal {c : Config} (h : c.legal = true) : construct c = .next (State.ofConfig c) := if_pos h

/-- Settles O8: a marked state's step is refused, so it too is marked, with the reason it has. -/
theorem refusedMarkIsSticky : Obligations.RefusedMarkIsSticky := by
  refine ⟨fun s r h => advance_of_step_refused h, fun s r h => ?_, fun c h => ?_⟩
  · have hstep := step_of_refused h
    exact ⟨hstep, (advance_of_step_refused hstep).trans (markRefused_of_refused h)⟩
  · exact ⟨State.ofConfig c, construct_of_legal h, rfl⟩

end Machine

end Sys2Proof

/-! PROOFS. The family 10_state: what every request and every step keeps of the state record, and how the registers
change. Each claim about a request is a case analysis of its `Effect`. -/

namespace Sys2Proof.Machine

variable {s t : State} {i : Instr}

/-! ### The invariant (R20 to R30) -/

/-- Every effect is built of operations that keep the block's invariant, and ends by responding. -/
theorem Effect.inv (h : Effect s i t) (hs : s.BlockInv) : t.Inv := by
  cases h with
  | rejected _ code _ hcode =>
    refine hs.inv_respond fun hunsupported => ?_
    rcases hcode with rfl | rfl <;> cases hunsupported
  | wrote x y level _ _ hlt => exact (hs.write hlt _).inv_respond nofun
  | readPixel x y _ _ _ => exact hs.inv_respond nofun
  | cleared => exact (hs.storeBuffer Memory.wf_nil nofun).inv_respond nofun
  | readByte idx _ => exact hs.inv_respond nofun
  | latchedWindow xs ys xe ye w hw => exact (hs.latchWindow hw).inv_respond nofun
  | flushed _ r w is hl _ hw _ => exact ((hs.latchWindow hw).emitSegments hl _).inv_respond nofun
  | sent _ dc bytes hl _ => exact (hs.emitSegments hl _).inv_respond nofun
  | configured hl => exact (hs.configure hl).inv_respond nofun
  | poweredOn cmds hl hv =>
    have hconf : s.lifecycle ≠ .uninitialized := by rw [hl]; decide
    have hclear : s.orientUndef = false := hs.orientBeforeOn (by rw [hl]; decide)
    refine ((hs.emitSegments hconf _).enterOn hconf ?_).inv_respond nofun
    simp [hclear, hv]
  | poweredOnUnsupported hl hv =>
    have hconf : s.lifecycle ≠ .uninitialized := by rw [hl]; decide
    exact ((hs.emitSegments hconf _).enterOnMarked hconf hv).inv_respond fun _ => rfl

/-- Settles O13: a step that waits changes nothing, and any other is an effect on the state without the word taken. -/
theorem stepKeepsTheInvariant : Obligations.StepKeepsTheInvariant := by
  intro s t hs h
  rcases step_cases h with ⟨-, rfl⟩ | ⟨w, rest, i, -, -, -, heffect⟩
  · exact hs
  · exact heffect.inv (hs.toBlockInv.withRequests rest)

/-! ### The trace and the lines (R27, R28) -/

/-- A request appends its events to the trace and changes the lines by them alone. -/
theorem Effect.emits (h : Effect s i t) : ∃ es, t.trace = s.trace ++ es ∧ t.lines = s.lines.applyAll es := by
  by_cases hi : i = .configureLines
  · subst hi
    exact ⟨_, h.configures.2⟩
  · obtain ⟨gs, happends, -⟩ := h.appends hi
    exact ⟨_, happends⟩

/-- Settles O22: a step that waits appends no event. -/
theorem traceIsAppendOnly : Obligations.TraceIsAppendOnly := by
  intro s t h
  rcases step_cases h with ⟨-, rfl⟩ | ⟨w, rest, i, -, -, -, heffect⟩
  · exact ⟨[], by simp⟩
  · exact heffect.emits

/-! ### The configuration (R32) and the buffer (R21) -/

theorem Effect.config_eq (h : Effect s i t) : t.config = s.config := by
  cases h <;> rfl

/-- Settles O15: BUF_LEN is a function of the configuration, which every effect keeps. -/
theorem configurationIsImmutable : Obligations.ConfigurationIsImmutable := by
  intro s t h
  have hconfig : t.config = s.config := by
    rcases step_cases h with ⟨-, rfl⟩ | ⟨w, rest, i, -, -, -, heffect⟩
    · rfl
    · exact heffect.config_eq
  exact ⟨hconfig, by rw [hconfig]⟩

/-- Settles O26: the two effects that store a buffer are those of SET_PIXEL and CLEAR. -/
theorem onlySetPixelAndClearWriteTheBuffer : Obligations.OnlySetPixelAndClearWriteTheBuffer := by
  intro s t i h hwrites
  cases exec_effect h with
  | wrote => cases hwrites
  | cleared => cases hwrites
  | _ => rfl

/-! ### LIFECYCLE and ORIENT_UNDEF (R22, R25) -/

theorem Effect.lifecycle_eq (h : Effect s i t) (hconf : i ≠ .configureLines) (hpower : i ≠ .powerOn) :
    t.lifecycle = s.lifecycle := by
  cases h with
  | configured => exact absurd rfl hconf
  | poweredOn => exact absurd rfl hpower
  | poweredOnUnsupported => exact absurd rfl hpower
  | _ => rfl

theorem Effect.orientUndef_eq (h : Effect s i t) (hpower : i ≠ .powerOn) : t.orientUndef = s.orientUndef := by
  cases h with
  | poweredOn => exact absurd rfl hpower
  | poweredOnUnsupported => exact absurd rfl hpower
  | _ => rfl

theorem Effect.enters_configuring (h : Effect s .configureLines t) : t.lifecycle = .configuring := by
  cases h with
  | rejected _ code hc hcode => exact absurd rfl (rejected_ne hc hcode).1
  | flushed _ r w is _ hi _ _ => simp at hi
  | sent _ dc bytes _ hi => simp at hi
  | configured _ => rfl

/-- POWER_ON leaves Configuring for On, and marks the orientation of a variant with no entry (R183, R184). -/
theorem Effect.powers_on (h : Effect s .powerOn t) :
    s.lifecycle = .configuring ∧ t.lifecycle = .on
      ∧ t.orientUndef = (s.orientUndef || s.config.variantCommands.isNone) := by
  cases h with
  | rejected _ code hc hcode => exact absurd rfl (rejected_ne hc hcode).2
  | flushed _ r w is _ hi _ _ => simp at hi
  | sent _ dc bytes _ hi => simp at hi
  | poweredOn cmds hl hv => exact ⟨hl, rfl, by simp [hv]⟩
  | poweredOnUnsupported hl hv => exact ⟨hl, rfl, by simp [hv]⟩

/-- Settles O23: only the effects of CONFIGURE_LINES and POWER_ON enter a lifecycle state. -/
theorem lifecycleOnlyAdvances : Obligations.LifecycleOnlyAdvances := by
  refine ⟨⟨rfl, rfl, rfl, fun l => by cases l <;> decide⟩, fun _ => rfl, fun s t i h => ?_⟩
  have heffect := exec_effect h
  split_ifs with hconf hpower
  · subst hconf
    obtain ⟨hbefore, -, -⟩ := heffect.configures
    exact ⟨hbefore, heffect.enters_configuring⟩
  · subst hpower
    obtain ⟨hbefore, hafter, -⟩ := heffect.powers_on
    exact ⟨hbefore, hafter⟩
  · exact heffect.lifecycle_eq hconf hpower

/-- Settles O24: only the effect of POWER_ON on a variant with no entry marks the orientation. -/
theorem orientationMarkIsSticky : Obligations.OrientationMarkIsSticky := by
  intro s t i h
  have heffect := exec_effect h
  by_cases hpower : i = .powerOn
  · subst hpower
    obtain ⟨-, -, horient⟩ := heffect.powers_on
    simpa using horient
  · simp [heffect.orientUndef_eq hpower, hpower]

/-! ### The window registers (R23) -/

/-- The window the four window registers hold. -/
def State.window (s : State) : Window := ⟨s.winColStart, s.winColStop, s.winRowStart, s.winRowStop⟩

theorem State.window_eq_iff {w : Window} :
    s.window = w ↔ s.winColStart = w.colStart ∧ s.winColStop = w.colStop ∧ s.winRowStart = w.rowStart
      ∧ s.winRowStop = w.rowStop := by
  cases w
  simp [State.window]

theorem windowRegion_eq_none_of_boundsCause {c : Config} (h : boundsCause c i) : windowRegion c i = none := by
  cases i with
  | setPixel | getPixel | readByte => rfl
  | _ => cases h

theorem badRegion_of_regionCause {c : Config} {r : Region} (h : regionCause c i) (hr : windowRegion c i = some r) :
    badRegion c r.xs r.ys r.xe r.ye := by
  cases i with
  | computeWindow xs ys xe ye => obtain rfl := Option.some.inj hr; exact h
  | flushRegion xs ys xe ye => obtain rfl := Option.some.inj hr; exact h
  | _ => cases h

/-- A request an argument check rejects computes no window: OUT_OF_BOUNDS is of requests that have no region, and
WRONG_POSITION is the failure of the window function. -/
theorem windowOf_ne_ok_of_cause {c : Config} {code : Status} {r : Region} {w : Window} (h : causeOf c i code)
    (hcode : code = .outOfBounds ∨ code = .wrongPosition) (hr : windowRegion c i = some r) :
    windowOf c r ≠ .ok w := by
  rcases hcode with rfl | rfl
  · rw [windowRegion_eq_none_of_boundsCause h] at hr
    cases hr
  · rw [windowOf_eq_error.2 ⟨rfl, badRegion_of_regionCause h hr⟩]
    nofun

/-- A request either computes a window, which the registers then hold, or computes none and keeps them. -/
theorem Effect.window_cases (h : Effect s i t) (hlegal : s.config.legal = true) :
    (∃ r, windowRegion s.config i = some r ∧ windowOf s.config r = .ok t.window)
      ∨ (∀ r w, windowRegion s.config i = some r → windowOf s.config r ≠ .ok w) ∧ t.window = s.window := by
  cases h with
  | rejected _ code hc hcode =>
    rcases hc with hcause | ⟨-, hillegal⟩
    · exact .inr ⟨fun _ _ hr => windowOf_ne_ok_of_cause hcause hcode hr, rfl⟩
    · exact absurd hlegal hillegal
  | latchedWindow xs ys xe ye w hw => exact .inl ⟨_, rfl, hw⟩
  | flushed _ r w is _ hi hw _ =>
    rcases hi with ⟨rfl, rfl, -⟩ | ⟨rfl, -⟩
    · exact .inl ⟨_, rfl, hw⟩
    · exact .inl ⟨_, rfl, hw⟩
  | sent _ dc bytes _ hi =>
    rcases hi with ⟨_, rfl, -⟩ | ⟨_, rfl, -⟩ | ⟨_, rfl, -⟩ <;> exact .inr ⟨nofun, rfl⟩
  | _ => exact .inr ⟨nofun, rfl⟩

theorem bit7_eq_zero {b : Byte} (h : b.toNat < 128) : b.extractLsb' 7 1 = 0 := by
  apply BitVec.eq_of_toNat_eq
  rw [BitVec.extractLsb'_toNat, Nat.shiftRight_eq_div_pow, Nat.div_eq_of_lt h]
  rfl

/-- Settles O25: the registers by `Effect.window_cases`, the bounds by the invariant of the state after. -/
theorem windowRegistersHoldTheLastWindow : Obligations.WindowRegistersHoldTheLastWindow := by
  refine ⟨fun _ => ⟨rfl, rfl, rfl, rfl⟩, fun s t i hs h => ?_⟩
  have heffect := exec_effect h
  have ht : t.BlockInv := (heffect.inv hs.toBlockInv).toBlockInv
  refine ⟨fun r w hr hw => State.window_eq_iff.1 ?_, fun hnone => State.window_eq_iff (w := s.window).1 ?_, ?_⟩
  · rcases heffect.window_cases hs.legal with ⟨r', hr', hw'⟩ | ⟨hnone, -⟩
    · obtain rfl : r = r' := Option.some.inj (hr.symm.trans hr')
      exact Except.ok.inj (hw'.symm.trans hw)
    · exact absurd hw (hnone r w hr)
  · rcases heffect.window_cases hs.legal with ⟨r, hr, hw⟩ | ⟨-, hkept⟩
    · exact absurd hw (hnone r _ hr)
    · exact hkept
  · have hcol := ht.colOrdered
    have hcols := ht.colInRange
    have hrow := ht.rowOrdered
    have hrows := ht.rowInRange
    rw [heffect.config_eq] at hcols hrows
    obtain ⟨-, hhalf⟩ := Config.halfW_bounds hs.legal
    obtain ⟨-, -, -, -, hheight, -⟩ := s.config.legal_iff.1 hs.legal
    exact ⟨by omega, by omega, by omega, by omega, bit7_eq_zero (by omega), bit7_eq_zero (by omega),
      bit7_eq_zero (by omega), bit7_eq_zero (by omega)⟩

/-! ### STATUS and the response are not read (R34) -/

/-- The state with any STATUS and any response in it. -/
def restamp (code : Status) (r : Option Word) (s : State) : State := { s with status := code, response := r }

@[simp] theorem restamp_config (code : Status) (r : Option Word) (s : State) :
    (restamp code r s).config = s.config := rfl

theorem bufRead_restamp (a : Nat) (code : Status) (r : Option Word) (s : State) :
    bufRead a (restamp code r s) = bufRead a s := rfl

theorem bufWrite_restamp (a : Nat) (v : Byte) (code : Status) (r : Option Word) (s : State) :
    bufWrite a v (restamp code r s) = (bufWrite a v s).map (restamp code r) := by
  unfold bufWrite
  rw [apply_ite (Except.map (restamp code r))]
  rfl

/-- The transfer engine's view reads the configuration and the buffer only. -/
theorem bufReadAll_congr (hconfig : t.config = s.config) (hbuf : t.buf = s.buf) (is : List Nat) :
    bufReadAll is t = bufReadAll is s := by
  induction is with
  | nil => rfl
  | cons a is ih => simp only [bufReadAll, bufRead, hconfig, hbuf, ih]

theorem streamWindow_restamp (w : Window) (is : List Nat) (code : Status) (r : Option Word) (s : State) :
    streamWindow w is (restamp code r s) = streamWindow w is s := by
  unfold streamWindow
  rw [bufReadAll_congr (s := s) (t := restamp code r s) rfl rfl]
  cases bufReadAll is s <;> rfl

theorem execSetPixel_restamp (x y level : Byte) (code : Status) (r : Option Word) (s : State) :
    execSetPixel x y level (restamp code r s) = execSetPixel x y level s := by
  unfold execSetPixel
  refine if_congr Iff.rfl rfl ?_
  simp only [restamp_config, bufRead_restamp, bufWrite_restamp]
  cases bufRead (pixelIndex s.config x y) s with
  | error f => rfl
  | ok b =>
    dsimp only
    cases bufWrite (pixelIndex s.config x y) (withNibble x b (grayLevel level)) s <;> rfl

/-- Settles O20: every meaning ends by overwriting STATUS and the response, and reads neither before. -/
theorem statusIsReadByNoRequest : Obligations.StatusIsReadByNoRequest := by
  intro s i code r
  change exec i (restamp code r s) = exec i s
  cases i with
  | setPixel x y level => exact execSetPixel_restamp x y level code r s
  | flushAll =>
    simp only [exec, execFlushAll, streamWindow_restamp]
    rfl
  | flushRegion xs ys xe ye =>
    simp only [exec, execFlushRegion, streamWindow_restamp]
    rfl
  | _ => rfl

end Sys2Proof.Machine

/-! PROOFS. The family 20_memory: the place of a pixel in the buffer, what each request answers on a legal
configuration, and that reading the buffer has no side effect. -/

namespace Sys2Proof.Machine

variable {s t : State} {i : Instr}

/-! ### The place of a pixel (R51, R53) -/

theorem pixelIndex_div_halfW {c : Config} (h : c.legal = true) {x : Byte} (hx : x.toNat < c.width) (y : Byte) :
    pixelIndex c x y / c.halfW = y.toNat := by
  have hcol : x.toNat / 2 < c.halfW := half_lt h hx
  rw [pixelIndex, Nat.add_mul_div_right _ _ (by omega), Nat.div_eq_of_lt hcol, Nat.zero_add]

theorem pixelIndex_mod_halfW {c : Config} (h : c.legal = true) {x : Byte} (hx : x.toNat < c.width) (y : Byte) :
    pixelIndex c x y % c.halfW = x.toNat / 2 := by
  rw [pixelIndex, Nat.add_mul_mod_self_right, Nat.mod_eq_of_lt (half_lt h hx)]

/-- Two pixels of one byte and of one parity are the same pixel: no nibble is shared (R53). -/
theorem pixel_eq_of_place_eq {c : Config} (h : c.legal = true) {x y x' y' : Byte} (hx : x.toNat < c.width)
    (hx' : x'.toNat < c.width) (hindex : pixelIndex c x' y' = pixelIndex c x y)
    (hparity : x'.toNat % 2 = x.toNat % 2) : (x', y') = (x, y) := by
  have hrow := pixelIndex_div_halfW h hx' y'
  have hcol := pixelIndex_mod_halfW h hx' y'
  rw [hindex, pixelIndex_div_halfW h hx] at hrow
  rw [hindex, pixelIndex_mod_halfW h hx] at hcol
  obtain rfl : x' = x := BitVec.eq_of_toNat_eq (by omega)
  obtain rfl : y' = y := BitVec.eq_of_toNat_eq hrow.symm
  rfl

/-- Every byte index and nibble of the buffer is the place of a pixel of the grid (R53). -/
theorem exists_pixel_of_place {c : Config} (h : c.legal = true) {a n : Nat} (ha : a < c.bufLen) (hn : n < 2) :
    ∃ x y : Byte, x.toNat = 2 * (a % c.halfW) + n ∧ y.toNat = a / c.halfW ∧ x.toNat < c.width
      ∧ y.toNat < c.height ∧ pixelIndex c x y = a ∧ x.toNat % 2 = n := by
  obtain ⟨-, hwidth, heven, -, hheight, -⟩ := c.legal_iff.1 h
  have hhalf : c.width = 2 * c.halfW := by rw [Config.halfW]; omega
  obtain ⟨hhalfPos, -⟩ := Config.halfW_bounds h
  have hcol : a % c.halfW < c.halfW := Nat.mod_lt _ (by omega)
  have hrow : a / c.halfW < c.height := by
    rw [Config.bufLen_eq h] at ha
    exact Nat.div_lt_of_lt_mul (Nat.mul_comm _ _ ▸ ha)
  have hx : (BitVec.ofNat 8 (2 * (a % c.halfW) + n)).toNat = 2 * (a % c.halfW) + n := by
    rw [BitVec.toNat_ofNat, Nat.mod_eq_of_lt (by omega)]
  have hy : (BitVec.ofNat 8 (a / c.halfW)).toNat = a / c.halfW := by
    rw [BitVec.toNat_ofNat, Nat.mod_eq_of_lt (by omega)]
  refine ⟨_, _, hx, hy, by omega, by omega, ?_, by omega⟩
  rw [pixelIndex, hx, hy, show (2 * (a % c.halfW) + n) / 2 = a % c.halfW by omega]
  exact Nat.mod_add_div' a c.halfW

/-! ### The nibbles of a byte (R52, R100) -/

theorem nibbleOf_eq (x b : Byte) :
    nibbleOf x b = if x.toNat % 2 = 0 then b.extractLsb' 0 4 else b.extractLsb' 4 4 := by
  rcases Nat.mod_two_eq_zero_or_one x.toNat with heven | hodd
  · simp [nibbleOf, heven]
  · simp [nibbleOf, hodd]

/-- The pixel's own nibble takes the low four bits of the level. -/
theorem nibbleOf_withNibble_self (x b level : Byte) :
    nibbleOf x (withNibble x b (grayLevel level)) = level.extractLsb' 0 4 := by
  unfold nibbleOf withNibble
  split <;>
  · ext k hk
    interval_cases k <;> simp [grayLevel]

/-- The nibble of the byte's other pixel is kept. -/
theorem nibbleOf_withNibble_of_parity_ne {x x' : Byte} (h : x'.toNat % 2 ≠ x.toNat % 2) (b level : Byte) :
    nibbleOf x' (withNibble x b (grayLevel level)) = nibbleOf x' b := by
  unfold nibbleOf withNibble
  by_cases hodd : x.toNat % 2 = 1
  · rw [if_pos hodd, if_neg (by omega), if_neg (by omega)]
    ext k hk
    interval_cases k <;> simp [grayLevel]
  · rw [if_neg hodd, if_pos (by omega), if_pos (by omega)]
    ext k hk
    interval_cases k <;> simp [grayLevel]

/-! ### SET_PIXEL on the pixels (R100, R103) -/

/-- The state with the level in the pixel's nibble and every other nibble kept. -/
def State.setPixel (x y level : Byte) (s : State) : State :=
  storeBuffer (s.buf.write (pixelIndex s.config x y)
    (withNibble x (s.buf.read (pixelIndex s.config x y)) (grayLevel level))) s

@[simp] theorem State.setPixel_config (x y level : Byte) (s : State) : (s.setPixel x y level).config = s.config := rfl

@[simp] theorem respond_pixel (code : Status) (d : ResponseData) (s : State) (x y : Byte) :
    (respond code d s).pixel x y = s.pixel x y := rfl

theorem State.pixel_setPixel_self (hwf : s.buf.wf = true) (x y level : Byte) :
    (s.setPixel x y level).pixel x y = level.extractLsb' 0 4 := by
  rw [State.pixel, State.setPixel_config, State.setPixel, storeBuffer_buf, Memory.read_write_self _ _ hwf,
    nibbleOf_withNibble_self]

/-- A write to one pixel changes no other: another byte is not written, and the byte's other nibble is kept. -/
theorem State.pixel_setPixel_of_ne (hlegal : s.config.legal = true) (hwf : s.buf.wf = true) {x y x' y' : Byte}
    (hx : x.toNat < s.config.width) (hx' : x'.toNat < s.config.width) (hne : (x', y') ≠ (x, y)) (level : Byte) :
    (s.setPixel x y level).pixel x' y' = s.pixel x' y' := by
  rw [State.pixel, State.pixel, State.setPixel_config, State.setPixel, storeBuffer_buf]
  by_cases hindex : pixelIndex s.config x' y' = pixelIndex s.config x y
  · have hparity : x'.toNat % 2 ≠ x.toNat % 2 := fun h => hne (pixel_eq_of_place_eq hlegal hx hx' hindex h)
    rw [hindex, Memory.read_write_self _ _ hwf, nibbleOf_withNibble_of_parity_ne hparity]
  · rw [Memory.read_write_of_ne hindex]

/-! ### What each request answers on a legal configuration (R187, R200) -/

theorem exec_setPixel_inside (hlegal : s.config.legal = true) {x y : Byte} (hx : x.toNat < s.config.width)
    (hy : y.toNat < s.config.height) (level : Byte) :
    exec (.setPixel x y level) s = .next (respond .ok .zero (s.setPixel x y level)) := by
  have hlt := pixelIndex_lt hlegal hx hy
  simp only [exec, execSetPixel, pixelOutside_eq_false.2 ⟨hx, hy⟩, bufRead_of_lt hlt, bufWrite_of_lt hlt]
  rfl

theorem exec_setPixel_outside {x y : Byte} (h : s.config.width ≤ x.toNat ∨ s.config.height ≤ y.toNat)
    (level : Byte) : exec (.setPixel x y level) s = .next (respond .outOfBounds .zero s) :=
  if_pos (pixelOutside_eq_true.2 h)

theorem exec_getPixel_inside (hlegal : s.config.legal = true) {x y : Byte} (hx : x.toNat < s.config.width)
    (hy : y.toNat < s.config.height) :
    exec (.getPixel x y) s = .next (respond .ok (.ofByte ((s.pixel x y).setWidth 8)) s) := by
  simp only [exec, execGetPixel, pixelOutside_eq_false.2 ⟨hx, hy⟩, bufRead_of_lt (pixelIndex_lt hlegal hx hy)]
  rfl

theorem exec_getPixel_outside {x y : Byte} (h : s.config.width ≤ x.toNat ∨ s.config.height ≤ y.toNat) :
    exec (.getPixel x y) s = .next (respond .outOfBounds .zero s) :=
  if_pos (pixelOutside_eq_true.2 h)

theorem exec_readByte_inside {idx : Index} (h : idx.toNat < s.config.bufLen) :
    exec (.readByte idx) s = .next (respond .ok (.ofByte (s.buf.read idx.toNat)) s) := by
  simp only [exec, execReadByte, if_neg (Nat.not_le_of_lt h), bufRead_of_lt h]
  rfl

theorem exec_readByte_outside {idx : Index} (h : s.config.bufLen ≤ idx.toNat) :
    exec (.readByte idx) s = .next (respond .outOfBounds .zero s) :=
  if_pos h

theorem exec_computeWindow_ok {xs ys xe ye : Byte} {w : Window} (hw : windowOf s.config ⟨xs, ys, xe, ye⟩ = .ok w) :
    exec (.computeWindow xs ys xe ye) s = .next (respond .ok (windowData (latchWindow w s)) (latchWindow w s)) := by
  simp only [exec, execComputeWindow, hw]
  rfl

theorem exec_computeWindow_error {xs ys xe ye : Byte} {code : Status}
    (hw : windowOf s.config ⟨xs, ys, xe, ye⟩ = .error code) :
    exec (.computeWindow xs ys xe ye) s = .next (respond code .zero s) := by
  simp only [exec, execComputeWindow, hw]
  rfl

/-- What a flush of a window appends: the addressing commands, then the bytes at the indices as data (R160, R161). -/
def flushSegments (c : Config) (m : Memory) (w : Window) (is : List Nat) : List Segment :=
  [.frames .low (windowCommands c w), .frames .high (is.map fun a => m.read a)]

/-- The state a flush of a window leaves, before it responds. -/
def State.stream (w : Window) (is : List Nat) (s : State) : State :=
  emitAll (segmentEvents (flushSegments s.config s.buf w is)) (latchWindow w s)

theorem streamWindow_of_lt {w : Window} {is : List Nat} (h : ∀ a ∈ is, a < s.config.bufLen) :
    streamWindow w is s = .next (respond .ok (windowData (latchWindow w s)) (s.stream w is)) := by
  simp only [streamWindow, bufReadAll_of_lt h, State.stream, flushSegments, segmentEvents, List.flatMap_cons,
    List.flatMap_nil, List.append_nil, Segment.events]
  rfl

/-- After CONFIGURE_LINES a bus request is not refused (R187). -/
theorem match_configured {l : Lifecycle} {k : Host.Outcome State Fault Refusal} :
    l ≠ .uninitialized →
      (match l with
      | .uninitialized => refuse .linesNotConfigured
      | .configuring | .on => k) = k := by
  intro hl
  cases l with
  | uninitialized => exact absurd rfl hl
  | configuring => rfl
  | on => rfl

theorem exec_flushAll (hl : s.lifecycle ≠ .uninitialized) {w : Window}
    (hw : windowOf s.config (fullRegion s.config) = .ok w) :
    exec .flushAll s
      = .next (respond .ok (windowData (latchWindow w s)) (s.stream w (allIndices s.config))) := by
  refine (match_configured hl).trans ?_
  rw [hw]
  exact streamWindow_of_lt (allIndices_lt s.config)

theorem exec_flushRegion_ok (hlegal : s.config.legal = true) (hl : s.lifecycle ≠ .uninitialized)
    {xs ys xe ye : Byte} {w : Window} (hw : windowOf s.config ⟨xs, ys, xe, ye⟩ = .ok w) :
    exec (.flushRegion xs ys xe ye) s
      = .next (respond .ok (windowData (latchWindow w s)) (s.stream w (windowIndices s.config w))) := by
  refine (match_configured hl).trans ?_
  rw [hw]
  exact streamWindow_of_lt (windowIndices_lt hlegal hw)

theorem exec_flushRegion_error (hl : s.lifecycle ≠ .uninitialized) {xs ys xe ye : Byte} {code : Status}
    (hw : windowOf s.config ⟨xs, ys, xe, ye⟩ = .error code) :
    exec (.flushRegion xs ys xe ye) s = .next (respond code .zero s) := by
  refine (match_configured hl).trans ?_
  rw [hw]
  rfl

theorem exec_sendCommand (hl : s.lifecycle ≠ .uninitialized) (b : Byte) :
    exec (.sendCommand b) s = .next (respond .ok .zero (emitAll (frame .low b) s)) :=
  match_configured hl

theorem exec_sendData (hl : s.lifecycle ≠ .uninitialized) (b : Byte) :
    exec (.sendData b) s = .next (respond .ok .zero (emitAll (frame .high b) s)) :=
  match_configured hl

theorem exec_setContrast (hl : s.lifecycle ≠ .uninitialized) (v : Byte) :
    exec (.setContrast v) s
      = .next (respond .ok .zero (emitAll (frame .low s.config.cmdContrast ++ frame .low v) s)) :=
  match_configured hl

theorem exec_configureLines (hl : s.lifecycle = .uninitialized) :
    exec .configureLines s = .next (respond .ok .zero (enter .configuring (emitAll (configureEvents s.config) s))) := by
  simp only [exec, execConfigureLines, hl]
  rfl

theorem exec_powerOn_some (hl : s.lifecycle = .configuring) {cmds : List Byte}
    (hv : s.config.variantCommands = some cmds) :
    exec .powerOn s
      = .next (respond .ok .zero (enter .on (emitAll (powerOnEvents s.config ++ frameCommands cmds) s))) := by
  simp only [exec, execPowerOn, hl, hv]
  rfl

theorem exec_powerOn_none (hl : s.lifecycle = .configuring) (hv : s.config.variantCommands = none) :
    exec .powerOn s
      = .next (respond .unsupportedVariant .zero
          (markOrientation (enter .on (emitAll (powerOnEvents s.config) s)))) := by
  simp only [exec, execPowerOn, hl, hv]
  rfl

/-- A request whose row of R187's table gives a reason is refused for it. -/
theorem exec_of_lifecycleRefusal {r : RefusalReason} (h : lifecycleRefusal i s.lifecycle = some r) :
    exec i s = .refused (.refuse r) := by
  cases hl : s.lifecycle <;> rw [hl] at h
  case uninitialized =>
    cases i with
    | flushAll | flushRegion | sendCommand | sendData | setContrast | powerOn =>
      obtain rfl := Option.some.inj h
      simp only [exec, execFlushAll, execFlushRegion, execSendCommand, execSendData, execSetContrast, execPowerOn, hl,
        refuse]
    | _ => cases h
  case configuring =>
    cases i with
    | configureLines =>
      obtain rfl := Option.some.inj h
      simp only [exec, execConfigureLines, hl, refuse]
    | _ => cases h
  case on =>
    cases i with
    | configureLines | powerOn =>
      obtain rfl := Option.some.inj h
      simp only [exec, execConfigureLines, execPowerOn, hl, refuse]
    | _ => cases h

/-- On a legal configuration a request R187's table does not refuse completes. -/
theorem exec_completes (hlegal : s.config.legal = true) (h : lifecycleRefusal i s.lifecycle = none) :
    ∃ t, exec i s = .next t := by
  have hconfigured (hbus : lifecycleRefusal i .uninitialized ≠ none) : s.lifecycle ≠ .uninitialized :=
    fun hl => hbus (hl ▸ h)
  cases i with
  | setPixel x y level =>
    cases hout : pixelOutside s.config x y with
    | false =>
      obtain ⟨hx, hy⟩ := pixelOutside_eq_false.1 hout
      exact ⟨_, exec_setPixel_inside hlegal hx hy level⟩
    | true => exact ⟨_, exec_setPixel_outside (pixelOutside_eq_true.1 hout) level⟩
  | getPixel x y =>
    cases hout : pixelOutside s.config x y with
    | false =>
      obtain ⟨hx, hy⟩ := pixelOutside_eq_false.1 hout
      exact ⟨_, exec_getPixel_inside hlegal hx hy⟩
    | true => exact ⟨_, exec_getPixel_outside (pixelOutside_eq_true.1 hout)⟩
  | clear => exact ⟨_, rfl⟩
  | readByte idx =>
    rcases Nat.lt_or_ge idx.toNat s.config.bufLen with hin | hout
    · exact ⟨_, exec_readByte_inside hin⟩
    · exact ⟨_, exec_readByte_outside hout⟩
  | computeWindow xs ys xe ye =>
    cases hw : windowOf s.config ⟨xs, ys, xe, ye⟩ with
    | error code => exact ⟨_, exec_computeWindow_error hw⟩
    | ok w => exact ⟨_, exec_computeWindow_ok hw⟩
  | flushAll => exact ⟨_, exec_flushAll (hconfigured nofun) (windowOf_fullRegion hlegal)⟩
  | flushRegion xs ys xe ye =>
    cases hw : windowOf s.config ⟨xs, ys, xe, ye⟩ with
    | error code => exact ⟨_, exec_flushRegion_error (hconfigured nofun) hw⟩
    | ok w => exact ⟨_, exec_flushRegion_ok hlegal (hconfigured nofun) hw⟩
  | sendCommand b => exact ⟨_, exec_sendCommand (hconfigured nofun) b⟩
  | sendData b => exact ⟨_, exec_sendData (hconfigured nofun) b⟩
  | configureLines =>
    cases hl : s.lifecycle with
    | uninitialized => exact ⟨_, exec_configureLines hl⟩
    | configuring => rw [hl] at h; cases h
    | on => rw [hl] at h; cases h
  | powerOn =>
    cases hl : s.lifecycle with
    | uninitialized => rw [hl] at h; cases h
    | configuring =>
      cases hv : s.config.variantCommands with
      | none => exact ⟨_, exec_powerOn_none hl hv⟩
      | some cmds => exact ⟨_, exec_powerOn_some hl hv⟩
    | on => rw [hl] at h; cases h
  | setContrast v => exact ⟨_, exec_setContrast (hconfigured nofun) v⟩

/-! ### No step faults (R60) -/

theorem exec_ne_fault (hlegal : s.config.legal = true) (f : Fault) : exec i s ≠ .fault f := by
  cases hr : lifecycleRefusal i s.lifecycle with
  | none =>
    obtain ⟨t, hnext⟩ := exec_completes hlegal hr
    rw [hnext]
    nofun
  | some r =>
    rw [exec_of_lifecycleRefusal hr]
    nofun

/-- A step that faults executed a request that faults. -/
theorem step_eq_fault {f : Fault} (h : step s = .fault f) :
    ∃ i rest, exec i (withRequests rest s) = .fault f := by
  cases hmark : s.refused with
  | some r => rw [step_of_refused hmark] at h; cases h
  | none =>
    cases hreq : s.requests with
    | nil => simp [step, hmark, takeRequest, hreq] at h
    | cons w rest =>
      cases hdec : decode w with
      | error e => simp [step, hmark, takeRequest_cons hreq, hdec, refuse] at h
      | ok i => exact ⟨i, rest, step_of_decode_ok hmark hreq hdec ▸ h⟩

/-- Settles O14: with a legal configuration a request completes or is refused. -/
theorem noStepFaults : Obligations.NoStepFaults := by
  intro s f hs h
  obtain ⟨i, rest, hfault⟩ := step_eq_fault h
  exact exec_ne_fault (s := withRequests rest s) hs.legal f hfault

/-! ### The pixel mapping is a bijection (R51 to R53) -/

/-- Settles O35: the places by `pixelIndex_div_halfW` and `exists_pixel_of_place`, the write by
`State.pixel_setPixel_of_ne`. -/
theorem pixelMappingIsABijection : Obligations.PixelMappingIsABijection := by
  intro c h
  refine ⟨fun _ _ => rfl, nibbleOf_eq, fun x y hx hy => ⟨pixelIndex_lt h hx hy, ?_, ?_⟩,
    fun _ _ => exists_pixel_of_place h, ?_⟩
  · exact (pixelIndex_div_halfW h hx y).symm
  · have hcol := pixelIndex_mod_halfW h hx y
    omega
  · rintro s x y x' y' level rfl hwf hx hy hx' - hne
    exact ⟨_, exec_setPixel_inside h hx hy level, State.pixel_setPixel_of_ne h hwf hx hx' hne level⟩

/-! ### Reads have no side effect (R59) -/

/-- How a request ends: its STATUS, its response data and the events it appends. -/
structure Answer where
  status : Status
  data : ResponseData
  events : List BusEvent

/-- The request ended from `s` in `t` with the answer, and kept the buffer. -/
structure Answers (s t : State) (a : Answer) : Prop where
  buf : t.buf = s.buf
  status : t.status = a.status
  reports : Reports t a.data
  trace : t.trace = s.trace ++ a.events

theorem answers_respond (code : Status) (d : ResponseData) : Answers s (respond code d s) ⟨code, d, []⟩ :=
  ⟨rfl, rfl, reports_respond code d s, (List.append_nil _).symm⟩

/-- The answer of a flush of a region that streams the indices of its window. -/
def flushAnswer (c : Config) (m : Memory) (r : Region) (indices : Window → List Nat) : Answer :=
  match windowOf c r with
  | .error code => ⟨code, .zero, []⟩
  | .ok w =>
    ⟨.ok, ⟨w.colStart, w.colStop, w.rowStart, w.rowStop⟩, segmentEvents (flushSegments c m w (indices w))⟩

/-- What a request that reads the buffer answers: a function of the configuration and the buffer. -/
def readAnswer (c : Config) (m : Memory) : Instr → Answer
  | .getPixel x y =>
    if pixelOutside c x y then ⟨.outOfBounds, .zero, []⟩
    else ⟨.ok, .ofByte ((nibbleOf x (m.read (pixelIndex c x y))).setWidth 8), []⟩
  | .readByte idx =>
    if c.bufLen ≤ idx.toNat then ⟨.outOfBounds, .zero, []⟩ else ⟨.ok, .ofByte (m.read idx.toNat), []⟩
  | .flushAll => flushAnswer c m (fullRegion c) fun _ => allIndices c
  | .flushRegion xs ys xe ye => flushAnswer c m ⟨xs, ys, xe, ye⟩ (windowIndices c)
  | .setPixel .. | .clear | .computeWindow .. | .sendCommand .. | .sendData .. | .configureLines | .powerOn
  | .setContrast .. => ⟨.ok, .zero, []⟩

/-- A flush that completes either has no window and fails, or streams the bytes of its window. -/
theorem answers_flushAnswer {r : Region} {indices : Window → List Nat}
    (h : (match windowOf s.config r with
      | .error code => fail code s
      | .ok w => streamWindow w (indices w) s) = .next t) : Answers s t (flushAnswer s.config s.buf r indices) := by
  unfold flushAnswer
  cases hw : windowOf s.config r with
  | error code =>
    rw [hw] at h
    exact fail_eq_next h ▸ answers_respond _ _
  | ok w =>
    rw [hw] at h
    obtain ⟨hlt, -⟩ := streamWindow_eq_next h
    obtain rfl := Host.Outcome.next.inj ((streamWindow_of_lt hlt).symm.trans h)
    exact ⟨rfl, rfl, reports_respond _ _ _, rfl⟩

theorem answers_readAnswer (hreads : readsBuffer i = true) (h : exec i s = .next t) :
    Answers s t (readAnswer s.config s.buf i) := by
  cases i with
  | getPixel x y =>
    simp only [exec, execGetPixel] at h
    rw [readAnswer]
    split at h
    · rename_i hout
      rw [if_pos hout, fail_eq_next h]
      exact answers_respond _ _
    · rename_i hin
      split at h
      · cases h
      · rename_i b hb
        obtain ⟨-, rfl⟩ := bufRead_eq_ok hb
        rw [if_neg hin, done_eq_next h]
        exact answers_respond _ _
  | readByte idx =>
    rcases Nat.lt_or_ge idx.toNat s.config.bufLen with hin | hout
    · obtain rfl := Host.Outcome.next.inj ((exec_readByte_inside hin).symm.trans h)
      rw [readAnswer, if_neg (Nat.not_le_of_lt hin)]
      exact answers_respond _ _
    · obtain rfl := Host.Outcome.next.inj ((exec_readByte_outside hout).symm.trans h)
      rw [readAnswer, if_pos hout]
      exact answers_respond _ _
  | flushAll => exact answers_flushAnswer (configured_of_next h).2
  | flushRegion xs ys xe ye => exact answers_flushAnswer (configured_of_next h).2
  | _ => cases hreads

/-- Settles O27: what a reading request answers is a function of the configuration and the buffer, which it keeps. -/
theorem readsHaveNoSideEffect : Obligations.ReadsHaveNoSideEffect := by
  intro s t s' t' i hreads h
  have hfirst := answers_readAnswer hreads h
  refine ⟨fun a => by rw [hfirst.buf], fun hconfig hbuf h' => ?_⟩
  have hagain := answers_readAnswer hreads h'
  rw [hconfig, hbuf, hfirst.buf] at hagain
  exact ⟨hagain.status.trans hfirst.status.symm, ⟨_, hfirst.reports, hagain.reports⟩,
    _, hfirst.trace, hagain.trace⟩

/-! ### A written pixel reaches the controller (R62) -/

/-- The controller latches the bytes of the segments a configured block emits, and nothing else (R148). -/
theorem State.BlockInv.latched_segments (h : s.BlockInv) (hl : s.lifecycle ≠ .uninitialized) (gs : List Segment) :
    latched (s.trace ++ segmentEvents gs) = latched s.trace ++ gs.flatMap Segment.latches := by
  rw [latched, latchedFrom_append, ← h.linesReplay, latchedFrom_segments (h.idle hl)]
  rfl

/-- A flush ends with the byte of its last index as data. -/
theorem State.BlockInv.getLast?_latched_stream (h : s.BlockInv) (hl : s.lifecycle ≠ .uninitialized) (w : Window)
    (is : List Nat) (a : Nat) :
    (latched (s.stream w (is ++ [a])).trace).getLast? = some ⟨.data, some (s.buf.read a)⟩ := by
  rw [State.stream, emitAll_trace, latchWindow_trace, h.latched_segments hl]
  simp [flushSegments, Segment.latches, kindOf]

/-- The window of one pixel. -/
theorem windowOf_pixel {c : Config} {x y : Byte} (hx : x.toNat < c.width) (hy : y.toNat < c.height) :
    windowOf c ⟨x, y, x, y⟩ = .ok ⟨x / 2, x / 2, y, y⟩ :=
  windowOf_eq_ok.2 ⟨⟨hx, hx, hy, hy⟩, ⟨le_rfl, le_rfl⟩, rfl⟩

/-- The window of one pixel is its byte. -/
theorem windowIndices_pixel (c : Config) (x y : Byte) :
    windowIndices c ⟨x / 2, x / 2, y, y⟩ = [pixelIndex c x y] := by
  simp [windowIndices, upTo, pixelIndex]

/-- Settles O51: the flush of one pixel streams its byte, whose nibble SET_PIXEL wrote. -/
theorem writtenPixelReachesTheController : Obligations.WrittenPixelReachesTheController := by
  intro s x y level hs hl hx hy
  have hset := exec_setPixel_inside hs.legal hx hy level
  have ht := ((exec_effect hset).inv hs.toBlockInv).toBlockInv
  have hflush := exec_flushRegion_ok ht.legal hl (windowOf_pixel hx hy)
  rw [windowIndices_pixel] at hflush
  refine ⟨_, _, _, hset, hflush, ht.getLast?_latched_stream hl _ [] _, ?_⟩
  exact State.pixel_setPixel_self hs.bufCanonical x y level

end Sys2Proof.Machine

/-! PROOFS. The family 30_encoding: the rows of the opcode map, the decoder and the encoder as inverses of each other,
the refusal of reserved words, the textual form, and the response of every request that ends. -/

namespace Sys2Proof

variable {w : Word} {i : Instr} {op : Opcode}

/-! ### The fields of a word as numbers (R71, R72) -/

@[simp] theorem toNat_opField (w : Word) : (opField w).toNat = w.toNat / 2 ^ 56 := by
  have := w.isLt
  simp only [opField, BitVec.extractLsb'_toNat, Nat.shiftRight_eq_div_pow]
  omega

@[simp] theorem toNat_field0 (w : Word) : (field0 w).toNat = w.toNat % 2 ^ 8 := by
  simp only [field0, BitVec.extractLsb'_toNat, Nat.shiftRight_zero]

@[simp] theorem toNat_field1 (w : Word) : (field1 w).toNat = w.toNat / 2 ^ 8 % 2 ^ 8 := by
  simp only [field1, BitVec.extractLsb'_toNat, Nat.shiftRight_eq_div_pow]

@[simp] theorem toNat_field2 (w : Word) : (field2 w).toNat = w.toNat / 2 ^ 16 % 2 ^ 8 := by
  simp only [field2, BitVec.extractLsb'_toNat, Nat.shiftRight_eq_div_pow]

@[simp] theorem toNat_field3 (w : Word) : (field3 w).toNat = w.toNat / 2 ^ 24 % 2 ^ 8 := by
  simp only [field3, BitVec.extractLsb'_toNat, Nat.shiftRight_eq_div_pow]

@[simp] theorem toNat_indexField (w : Word) : (indexField w).toNat = w.toNat % 2 ^ 16 := by
  simp only [indexField, BitVec.extractLsb'_toNat, Nat.shiftRight_zero]

/-- IDX lies in the two low operand bytes. -/
theorem indexField_wordOf (op b3 b2 : Byte) (idx : Index) :
    indexField (wordOf op b3 b2 (idx.extractLsb' 8 8) (idx.extractLsb' 0 8)) = idx := by
  have := idx.isLt
  apply BitVec.eq_of_toNat_eq
  simp only [toNat_indexField, toNat_wordOf, BitVec.extractLsb'_toNat, Nat.shiftRight_eq_div_pow]
  omega

/-! ### The rows of the opcode map (R74) -/

/-- The OP column of R74's table. -/
def Opcode.code (op : Opcode) : Byte := opField op.pattern

/-- An OP selects the row it is the code of. -/
theorem Opcode.ofByte_eq_some_iff {b : Byte} : Opcode.ofByte b = some op ↔ b = op.code := by
  constructor
  · intro h
    unfold Opcode.ofByte at h
    split at h
    case h_13 => cases h
    all_goals
      rename_i hb
      obtain rfl := Option.some.inj h
      exact BitVec.eq_of_toNat_eq hb
  · rintro rfl
    cases op <;> rfl

/-- The reserved OP values of R75 are those that select no row. -/
theorem Opcode.ofByte_eq_none_iff {b : Byte} : Opcode.ofByte b = none ↔ b.toNat = 0 ∨ 0x0D ≤ b.toNat := by
  unfold Opcode.ofByte
  constructor
  · intro h
    split at h
    case h_13 =>
      simp only [imp_false] at *
      omega
    all_goals cases h
  · intro h
    split
    case h_13 => rfl
    all_goals omega

/-- A word meets a row's match under its mask exactly when it has the row's OP and no 1 between OP and the operand
bits. -/
theorem Opcode.matches_iff_code : w &&& op.mask = op.pattern ↔
    opField w = op.code ∧ w.toNat % 2 ^ 56 / 2 ^ op.operandBits = 0 := by
  rw [op.matches_iff, Opcode.code, ← BitVec.toNat_inj, toNat_opField, toNat_opField]
  cases op <;> simp only [Opcode.pattern, Opcode.operandBits, BitVec.toNat_ofNat] <;> omega

/-! ### Decoding (R78) -/

theorem decode_eq_ok_iff : decode w = .ok i ↔ ∃ op : Opcode, w &&& op.mask = op.pattern ∧ op.request w = i := by
  constructor
  · intro h
    unfold decode at h
    split at h
    · cases h
    · rename_i op _
      split at h
      · rename_i hmatch
        exact ⟨op, hmatch, Except.ok.inj h⟩
      · cases h
  · rintro ⟨op, hmatch, rfl⟩
    simp only [decode, Opcode.ofByte_eq_some_iff.2 (Opcode.matches_iff_code.1 hmatch).1, if_pos hmatch]

theorem decode_of_ofByte_none (h : Opcode.ofByte (opField w) = none) : decode w = .error .reservedOpcode := by
  simp only [decode, h]

theorem decode_of_not_matches (hop : Opcode.ofByte (opField w) = some op) (h : w &&& op.mask ≠ op.pattern) :
    decode w = .error .reservedBits := by
  simp only [decode, hop, if_neg h]

/-! ### Encoding (R71, R72, R74) -/

/-- The row of a request. -/
def Instr.opcode : Instr → Opcode
  | .setPixel .. => .setPixel
  | .getPixel .. => .getPixel
  | .clear => .clear
  | .readByte .. => .readByte
  | .computeWindow .. => .computeWindow
  | .flushAll => .flushAll
  | .flushRegion .. => .flushRegion
  | .sendCommand .. => .sendCommand
  | .sendData .. => .sendData
  | .configureLines => .configureLines
  | .powerOn => .powerOn
  | .setContrast .. => .setContrast

/-- The word of a request meets the match of its row. -/
theorem encode_matches (i : Instr) : encode i &&& i.opcode.mask = i.opcode.pattern := by
  rw [Opcode.matches_iff]
  cases i <;>
    simp only [encode, Instr.opcode, Opcode.pattern, Opcode.operandBits, toNat_wordOf, BitVec.ofNat_eq_ofNat,
      BitVec.toNat_ofNat, BitVec.extractLsb'_toNat, Nat.shiftRight_eq_div_pow, Nat.reducePow] <;>
    omega

/-- Each operand of a request is read back from the field its format puts it in. -/
theorem request_encode (i : Instr) : i.opcode.request (encode i) = i := by
  cases i <;> simp [encode, Instr.opcode, Opcode.request, indexField_wordOf]

theorem decode_encode (i : Instr) : decode (encode i) = .ok i :=
  decode_eq_ok_iff.2 ⟨i.opcode, encode_matches i, request_encode i⟩

theorem decode_of_encode_eq (h : encode i = w) : decode w = .ok i := h ▸ decode_encode i

/-- A word that meets a row's match is rebuilt from the fields the row's format names: every other bit is fixed. -/
theorem encode_request (h : w &&& op.mask = op.pattern) : encode (op.request w) = w := by
  rw [Opcode.matches_iff] at h
  have := w.isLt
  apply BitVec.eq_of_toNat_eq
  cases op <;>
    simp only [Opcode.pattern, Opcode.operandBits, BitVec.toNat_ofNat] at h <;>
    simp only [Opcode.request, encode, toNat_wordOf, toNat_field0, toNat_field1, toNat_field2, toNat_field3,
      toNat_indexField, BitVec.extractLsb'_toNat, Nat.shiftRight_eq_div_pow, BitVec.ofNat_eq_ofNat,
      BitVec.toNat_ofNat, Nat.reducePow] <;>
    omega

/-- The written form of a request is well formed and read back as that request (R81). -/
theorem assemblerForm (i : Instr) : Laws.AssemblerForm.Statement i :=
  Laws.AssemblerForm.of_wellFormed (by
    cases i <;>
      simp [Instr.toLine, SourceLine.wellFormed, Laws.AssemblerForm.byte_fits, Laws.AssemblerForm.index_fits])

/-- Settles O1: each request's word meets the match of its row, and its operands stand in the row's fields. -/
theorem decodeOfEncodeIsTheRequest : Obligations.DecodeOfEncodeIsTheRequest :=
  fun i => ⟨(assemblerForm i).1, decode_encode i⟩

/-- Settles O2: only a word that meets a row's match decodes, and such a word is rebuilt from its fields. -/
theorem everyRequestHasOneWord : Obligations.EveryRequestHasOneWord := by
  intro w i h
  obtain ⟨op, hmatch, rfl⟩ := decode_eq_ok_iff.1 h
  exact encode_request hmatch

namespace Machine

/-! ### Reserved words (R75, R76) -/

variable {s t : State}

theorem step_of_decode_error {rest : List Word} {e : DecodeError} (hmark : s.refused = none)
    (hreq : s.requests = w :: rest) (hdec : decode w = .error e) : step s = .refused (.refuse (decodeRefusal e)) := by
  simp only [step, hmark, takeRequest_cons hreq, hdec, refuse]

/-- How many low bits the format of an OP names, as R72's table lists them. -/
def namedBits (op : Nat) : Nat := [24, 16, 0, 16, 32, 0, 32, 8, 8, 0, 0, 8].getD (op - 1) 0

theorem namedBits_code (op : Opcode) : namedBits op.code.toNat = op.operandBits := by
  cases op <;> rfl

/-- A defined OP selects a row, and the word is a request of it exactly when its reserved bits are 0. -/
theorem exists_row_of_defined (hpos : 0 < w.toNat / 2 ^ 56) (hlt : w.toNat / 2 ^ 56 < 0x0D) :
    ∃ op : Opcode, Opcode.ofByte (opField w) = some op
      ∧ (w &&& op.mask = op.pattern ↔ w.toNat % 2 ^ 56 / 2 ^ namedBits (w.toNat / 2 ^ 56) = 0) := by
  rw [← toNat_opField] at hpos hlt ⊢
  obtain ⟨op, hrow⟩ := Option.ne_none_iff_exists'.1 fun hnone : Opcode.ofByte (opField w) = none => by
    have := Opcode.ofByte_eq_none_iff.1 hnone
    omega
  have hcode := Opcode.ofByte_eq_some_iff.1 hrow
  refine ⟨op, hrow, ?_⟩
  rw [Opcode.matches_iff_code, hcode, namedBits_code]
  exact and_iff_right rfl

/-- Settles O3: a reserved OP selects no row, and a row's mask covers OP and the bits above its named ones. -/
theorem reservedWordsAreRefused : Obligations.ReservedWordsAreRefused := by
  intro s w rest hmark hreq
  refine ⟨fun hop => ?_, fun hpos hlt hbits => ?_, fun hpos hlt hbits => ?_⟩
  · rw [← toNat_opField, ← Opcode.ofByte_eq_none_iff] at hop
    exact step_of_decode_error hmark hreq (decode_of_ofByte_none hop)
  · obtain ⟨op, hrow, hmatch⟩ := exists_row_of_defined hpos hlt
    exact step_of_decode_error hmark hreq (decode_of_not_matches hrow (mt hmatch.1 hbits))
  · obtain ⟨op, -, hmatch⟩ := exists_row_of_defined hpos hlt
    exact ⟨_, decode_eq_ok_iff.2 ⟨op, hmatch.2 hbits, rfl⟩⟩

/-! ### The response (R79, R80) -/

/-- A success reports the row of R80's table when its data is that row. -/
theorem reportsTable_respond_ok {d : ResponseData} (hdata : responseDataOf (respond .ok d s) i = d) :
    Reports (respond .ok d s)
      (if (respond .ok d s).status = .ok then responseDataOf (respond .ok d s) i else .zero) := by
  rw [if_pos (respond_status ..), hdata]
  exact reports_respond .ok d s

/-- A failure reports data 0. -/
theorem reportsTable_respond_failure {code : Status} (hcode : code ≠ .ok) :
    Reports (respond code .zero s)
      (if (respond code .zero s).status = .ok then responseDataOf (respond code .zero s) i else .zero) := by
  rw [respond_status, if_neg hcode]
  exact reports_respond code .zero s

/-- Settles O19: each way a request ends responds with its row of R80's table, or fails with data 0. -/
theorem responsesFollowTheTable : Obligations.ResponsesFollowTheTable := by
  intro s t i h
  cases exec_effect h with
  | rejected _ code _ hcode => exact reportsTable_respond_failure (by rcases hcode with rfl | rfl <;> decide)
  | poweredOnUnsupported _ _ => exact reportsTable_respond_failure (by decide)
  | flushed _ r w is _ hi _ _ =>
    refine reportsTable_respond_ok ?_
    rcases hi with ⟨rfl, -⟩ | ⟨rfl, -⟩ <;> rfl
  | sent _ dc bytes _ hi =>
    refine reportsTable_respond_ok ?_
    rcases hi with ⟨b, rfl, -⟩ | ⟨b, rfl, -⟩ | ⟨v, rfl, -⟩ <;> rfl
  | _ => exact reportsTable_respond_ok rfl

/-! ### The textual form (R81 to R83) -/

/-- The lines of a list of requests assemble to their words. -/
theorem encodeLines_map_toLine (is : List Instr) : encodeLines (is.map Instr.toLine) = .ok (is.map encode) := by
  induction is with
  | nil => rfl
  | cons i is ih => simp only [List.map_cons, encodeLines, (assemblerForm i).2, ih]

/-- A statement that expands to the lines of requests assembles to their words. -/
theorem assemble_of_expand {c : Config} {st : Statement} (is : List Instr)
    (h : st.expand c = is.map Instr.toLine) : st.assemble c = .ok (is.map encode) := by
  rw [Statement.assemble, h, encodeLines_map_toLine]

/-- Settles O5: each expansion is the written form of the table's requests; halving an x operand is the same before and
after it becomes a byte. -/
theorem pseudoInstructionsExpand : Obligations.PseudoInstructionsExpand := by
  refine ⟨fun c x y => ⟨?_, ?_⟩, fun c => ?_, fun c xs ys xe ye => ?_⟩
  · exact assemble_of_expand [.setPixel x y 0] rfl
  · exact assemble_of_expand [.flushRegion x y x y] rfl
  · exact assemble_of_expand [.configureLines, .powerOn] rfl
  · refine assemble_of_expand [.sendCommand c.cmdSetColumn, .sendCommand (xs / 2), .sendCommand (xe / 2),
      .sendCommand c.cmdSetRow, .sendCommand ys, .sendCommand ye] ?_
    simp [Statement.expand, Instr.toLine]

/-- Settles O4: no text of a request depends on the configuration, and each word is the encoding of its request. -/
theorem encodingExamples : Obligations.EncodingExamples := by
  refine ⟨fun c => ?_, ?_⟩
  · exact ⟨rfl, rfl, rfl, rfl, rfl, rfl, rfl, rfl, rfl, rfl, rfl, rfl, rfl⟩
  · refine ⟨?_, ?_, ?_, ?_, ?_, ?_, ?_, ?_, ?_, ?_, ?_, ?_, ?_⟩ <;> exact decode_of_encode_eq rfl

end Machine

end Sys2Proof

/-! PROOFS. The family 40_pixel_buffer: SET_PIXEL, GET_PIXEL, CLEAR and READ_BYTE, what each returns and leaves
unchanged, the laws between them, and CLEAR as a loop of byte writes. -/

namespace Sys2Proof.Machine

/-! ### Several writes of the buffer (R105) -/

namespace Memory

variable {m : Memory}

/-- Writes of different bytes commute: after either order every index reads the same. -/
theorem write_comm (hm : m.wf = true) {i j : Nat} (hij : i ≠ j) (v w : Byte) :
    write j w (write i v m) = write i v (write j w m) := by
  have hi := wf_write i v hm
  have hj := wf_write j w hm
  refine ext_of_wf (wf_write j w hi) (wf_write i v hj) fun a => ?_
  rw [read_write hi, read_write hm, read_write hj, read_write hm]
  by_cases ha : a = i
  · subst ha
    simp only [if_neg hij]
  · simp only [if_neg ha]

/-- Of two writes of one byte the later one stays. -/
theorem write_write_self (hm : m.wf = true) (i : Nat) (v w : Byte) : write i w (write i v m) = write i w m := by
  have hi := wf_write i v hm
  refine ext_of_wf (wf_write i w hi) (wf_write i w hm) fun a => ?_
  rw [read_write hi, read_write hm, read_write hm]
  split <;> rfl

/-- A loop of writes of one value keeps the canonical form. -/
theorem wf_foldl_write (hm : m.wf = true) (v : Byte) (is : List Nat) :
    wf (is.foldl (fun m i => write i v m) m) = true := by
  induction is generalizing m with
  | nil => exact hm
  | cons i is ih => exact ih (wf_write i v hm)

/-- After a loop of writes of one value the written indices read it, and every other reads as before. -/
theorem read_foldl_write (hm : m.wf = true) (v : Byte) (is : List Nat) (a : Nat) :
    read a (is.foldl (fun m i => write i v m) m) = if a ∈ is then v else read a m := by
  induction is generalizing m with
  | nil => rfl
  | cons i is ih =>
    rw [List.foldl_cons, ih (wf_write i v hm), read_write hm]
    by_cases hmem : a ∈ is
    · rw [if_pos hmem, if_pos (List.mem_cons_of_mem i hmem)]
    · simp only [List.mem_cons, hmem, or_false, if_false]

/-- An index no cell lists reads as unlisted. -/
theorem read_of_forall_ne {a : Nat} (h : ∀ cell ∈ m, cell.1 ≠ a) : read a m = unlisted := by
  induction m with
  | nil => rfl
  | cons cell m ih =>
    rw [read_cons, if_neg (h cell List.mem_cons_self)]
    exact ih fun c hc => h c (List.mem_cons_of_mem _ hc)

/-- Writing 0x00 to at least every listed index, in any order, leaves the empty buffer: nothing is left that reads as
anything else. -/
theorem foldl_write_zero (hm : m.wf = true) {is : List Nat} (h : ∀ cell ∈ m, cell.1 ∈ is) :
    is.foldl (fun m i => write i 0x00 m) m = [] := by
  refine ext_of_wf (wf_foldl_write hm _ is) wf_nil fun a => ?_
  rw [read_foldl_write hm]
  split
  · rfl
  · rename_i ha
    exact read_of_forall_ne fun cell hcell heq => ha (heq ▸ h cell hcell)

end Memory

variable {s : State}

/-! ### CLEAR (R104) -/

theorem exec_clear (s : State) : exec .clear s = .next (respond .ok .zero (storeBuffer [] s)) := rfl

theorem nibbleOf_zero (x : Byte) : nibbleOf x 0x00 = 0 := by
  unfold nibbleOf
  split <;> rfl

/-- Settles O33: the order is of all the indices below BUF_LEN, so the loop writes 0x00 to every listed one. -/
theorem clearIsTheLoopInAnyOrder : Obligations.ClearIsTheLoopInAnyOrder := by
  intro s order hwf hrange hperm
  have hlisted : ∀ cell ∈ s.buf, cell.1 ∈ order := fun cell hcell =>
    hperm.mem_iff.2 (List.mem_range.2 (hrange cell hcell))
  rw [Memory.foldl_write_zero hwf hlisted]
  rfl

/-- Settles O32: the buffer with no cell reads 0x00 at every index, so either nibble of a byte is 0. -/
theorem clearZeroesEveryPixel : Obligations.ClearZeroesEveryPixel := by
  refine ⟨decode_of_encode_eq rfl, fun s => ⟨_, exec_clear s, fun _ => rfl, fun x y hlegal hx hy => ?_, rfl,
    reports_respond _ _ _, rfl⟩⟩
  have hpixel : (respond .ok .zero (storeBuffer [] s)).pixel x y = 0 := nibbleOf_zero x
  have hget := exec_getPixel_inside (s := respond .ok .zero (storeBuffer [] s)) hlegal hx hy
  rw [hpixel] at hget
  exact ⟨_, hget, reports_respond _ _ _⟩

/-! ### READ_BYTE (R106) and GET_PIXEL (R102) -/

/-- Settles O34: below BUF_LEN the byte is read, from BUF_LEN up the request fails; both only respond. -/
theorem readByteReturnsTheByte : Obligations.ReadByteReturnsTheByte := by
  intro s idx
  refine ⟨decode_encode (.readByte idx), fun hin => ?_, fun hout => ?_⟩
  · exact ⟨_, exec_readByte_inside hin, reports_respond _ _ _, rfl⟩
  · exact ⟨_, exec_readByte_outside hout, reports_respond _ _ _, rfl⟩

/-- Settles O30: in range the pixel's nibble is read, out of range the request fails; both only respond. -/
theorem getPixelReturnsTheNibble : Obligations.GetPixelReturnsTheNibble := by
  intro s x y hlegal
  refine ⟨decode_encode (.getPixel x y), fun hx hy => ?_, fun hout => ?_⟩
  · exact ⟨_, exec_getPixel_inside hlegal hx hy, reports_respond _ _ _, rfl⟩
  · exact ⟨_, exec_getPixel_outside hout, reports_respond _ _ _, rfl⟩

/-! ### SET_PIXEL (R100, R101, R103) -/

/-- Settles O29: in range one byte is written, `withNibble` of what it was; out of range the request only responds. -/
theorem setPixelWritesOneNibble : Obligations.SetPixelWritesOneNibble := by
  intro s x y level hlegal hwf
  refine ⟨decode_encode (.setPixel x y level), fun hx hy => ?_, fun hout => ?_⟩
  · exact ⟨_, exec_setPixel_inside hlegal hx hy level, Memory.read_write_self _ _ hwf,
      fun a ha => Memory.read_write_of_ne ha _ _, rfl, reports_respond _ _ _, rfl⟩
  · exact ⟨_, exec_setPixel_outside hout level, reports_respond _ _ _, rfl⟩

/-- The two nibbles of a byte may be replaced in either order. -/
theorem withNibble_comm {x x' : Byte} (h : x'.toNat % 2 ≠ x.toNat % 2) (b level level' : Byte) :
    withNibble x' (withNibble x b (grayLevel level)) (grayLevel level')
      = withNibble x (withNibble x' b (grayLevel level')) (grayLevel level) := by
  unfold withNibble
  by_cases hodd : x.toNat % 2 = 1
  · simp only [if_pos hodd, if_neg (show ¬x'.toNat % 2 = 1 by omega)]
    ext k hk
    interval_cases k <;> simp [grayLevel]
  · simp only [if_neg hodd, if_pos (show x'.toNat % 2 = 1 by omega)]
    ext k hk
    interval_cases k <;> simp [grayLevel]

/-- Writes of different pixels commute: they write different bytes, or different nibbles of one byte. -/
theorem State.setPixel_comm (hlegal : s.config.legal = true) (hwf : s.buf.wf = true) {x y x' y' : Byte}
    (hx : x.toNat < s.config.width) (hx' : x'.toNat < s.config.width) (hne : (x', y') ≠ (x, y)) (l l' : Byte) :
    (s.setPixel x y l).setPixel x' y' l' = (s.setPixel x' y' l').setPixel x y l := by
  simp only [State.setPixel, storeBuffer_config, storeBuffer_buf]
  by_cases hindex : pixelIndex s.config x' y' = pixelIndex s.config x y
  · have hparity : x'.toNat % 2 ≠ x.toNat % 2 := fun h => hne (pixel_eq_of_place_eq hlegal hx hx' hindex h)
    rw [hindex, Memory.read_write_self _ _ hwf, Memory.read_write_self _ _ hwf, Memory.write_write_self hwf,
      Memory.write_write_self hwf, withNibble_comm hparity]
    rfl
  · rw [Memory.read_write_of_ne hindex, Memory.read_write_of_ne (Ne.symm hindex),
      Memory.write_comm hwf (Ne.symm hindex)]
    rfl

/-- Two SET_PIXELs in range leave what the two writes leave. -/
theorem exec_setPixel_after_setPixel (hlegal : s.config.legal = true) (x y l : Byte) {x' y' : Byte}
    (hx' : x'.toNat < s.config.width) (hy' : y'.toNat < s.config.height) (l' : Byte) :
    exec (.setPixel x' y' l') (respond .ok .zero (s.setPixel x y l))
      = .next (respond .ok .zero ((s.setPixel x y l).setPixel x' y' l')) :=
  exec_setPixel_inside (s := respond .ok .zero (s.setPixel x y l)) hlegal hx' hy' l'

/-- A level of at most 15 is its own low nibble. -/
theorem setWidth_lowNibble {l : Byte} (h : l.toNat ≤ 15) : (l.extractLsb' 0 4).setWidth 8 = l := by
  apply BitVec.eq_of_toNat_eq
  simp only [BitVec.toNat_setWidth, BitVec.extractLsb'_toNat, Nat.shiftRight_zero]
  omega

/-- Settles O31: the pixel read and the others kept by the laws of `State.setPixel`, the order of two by
`State.setPixel_comm`; a rejected SET_PIXEL only responds. -/
theorem pixelLaws : Obligations.PixelLaws := by
  intro s x y l hlegal hwf hl
  refine ⟨fun hx hy => ?_, fun hout => ?_⟩
  · have hset := exec_setPixel_inside hlegal hx hy l
    refine ⟨?_, fun x' y' hx' hy' hne => ?_, fun x' y' l' hx' hy' hne => ?_⟩
    · have hget := exec_getPixel_inside (s := respond .ok .zero (s.setPixel x y l)) hlegal hx hy
      rw [respond_pixel, State.pixel_setPixel_self hwf, setWidth_lowNibble hl] at hget
      exact ⟨_, _, hset, hget, reports_respond _ _ _⟩
    · exact ⟨_, hset, State.pixel_setPixel_of_ne hlegal hwf hx hx' hne l⟩
    · refine ⟨_, _, _, hset, exec_setPixel_after_setPixel hlegal x y l hx' hy' l',
        exec_setPixel_inside hlegal hx' hy' l', ?_⟩
      rw [exec_setPixel_after_setPixel hlegal x' y' l' hx hy, State.setPixel_comm hlegal hwf hx hx' hne]
  · have hset := exec_setPixel_outside hout l
    exact ⟨_, hset, rfl, rfl, exec_setPixel_outside (s := respond .outOfBounds .zero s) hout l⟩

end Sys2Proof.Machine

/-! PROOFS. The family 41_window_addressing: the request COMPUTE_WINDOW, the range of a window, the window of the full
region, and which pixels a window covers. -/

namespace Sys2Proof.Machine

/-! ### COMPUTE_WINDOW (R120, R122, R123) -/

theorem not_badRegion_iff {c : Config} {xs ys xe ye : Byte} :
    ¬ badRegion c xs ys xe ye ↔
      (xs.toNat < c.width ∧ xe.toNat < c.width ∧ ys.toNat < c.height ∧ ye.toNat < c.height)
        ∧ xs.toNat ≤ xe.toNat ∧ ys.toNat ≤ ye.toNat := by
  unfold badRegion
  omega

/-- Settles O36: a valid region has the window of its halved columns and its rows; an invalid one is a bad region, for
which the window function fails and the request only responds. -/
theorem computeWindowLatchesTheWindow : Obligations.ComputeWindowLatchesTheWindow := by
  intro s xs ys xe ye valid
  refine ⟨decode_encode (.computeWindow xs ys xe ye), fun ⟨hrange, horder⟩ => ?_, fun hinvalid => ?_⟩
  · have hw : windowOf s.config ⟨xs, ys, xe, ye⟩ = .ok ⟨xs / 2, xe / 2, ys, ye⟩ :=
      windowOf_eq_ok.2 ⟨hrange, horder, rfl⟩
    exact ⟨_, exec_computeWindow_ok hw, toNat_half xs, toNat_half xe, rfl, rfl, reports_respond _ _ _, rfl⟩
  · have hbad : badRegion s.config xs ys xe ye := not_not.1 (mt not_badRegion_iff.1 hinvalid)
    exact ⟨_, exec_computeWindow_error (windowOf_eq_error.2 ⟨rfl, hbad⟩), reports_respond _ _ _, rfl⟩

/-! ### The range of a window (R121) -/

/-- A byte below 128 fits in 7 bits. -/
theorem extractLsb'_seven_eq_zero {b : Byte} (h : b.toNat < 128) : b.extractLsb' 7 1 = 0 := by
  apply BitVec.eq_of_toNat_eq
  rw [BitVec.extractLsb'_toNat, Nat.shiftRight_eq_div_pow, Nat.div_eq_of_lt h]
  rfl

/-- Settles O37: a window lies in the buffer, whose columns are below 64 and whose rows are below 128. -/
theorem successfulWindowsAreInRange : Obligations.SuccessfulWindowsAreInRange := by
  intro c r w hlegal hw
  obtain ⟨hcol, hcolStop, hrow, hrowStop⟩ := window_range hlegal hw
  obtain ⟨-, hhalf⟩ := Config.halfW_bounds hlegal
  obtain ⟨-, -, -, -, hheight, -⟩ := c.legal_iff.1 hlegal
  exact ⟨hcol, by omega, by omega, hrow, by omega, by omega,
    extractLsb'_seven_eq_zero (by omega), extractLsb'_seven_eq_zero (by omega),
    extractLsb'_seven_eq_zero (by omega), extractLsb'_seven_eq_zero (by omega)⟩

/-! ### The full region (R126) -/

theorem fullRegion_eq {c : Config} {xe ye : Byte} (hxe : xe.toNat = c.width - 1) (hye : ye.toNat = c.height - 1) :
    fullRegion c = ⟨0, 0, xe, ye⟩ := by
  simp [fullRegion, ← hxe, ← hye]

/-- Settles O38: WIDTH is even, so halving WIDTH - 1 gives WIDTH / 2 - 1. -/
theorem fullRegionWindow : Obligations.FullRegionWindow := by
  intro c xe ye hlegal hxe hye
  obtain ⟨-, -, heven, -⟩ := c.legal_iff.1 hlegal
  have hw : windowOf c ⟨0, 0, xe, ye⟩ = .ok ⟨0, xe / 2, 0, ye⟩ := by
    simpa [fullRegion_eq hxe hye, ← hxe, ← hye] using windowOf_fullRegion hlegal
  refine ⟨_, hw, rfl, ?_, rfl, hye⟩
  rw [toNat_half, hxe]
  omega

/-! ### The pixels a window covers (R127) -/

/-- The left edge: halving an odd XS takes in the pixel left of it. -/
theorem half_le_half_iff_start {xs x : Nat} : xs / 2 ≤ x / 2 ↔ xs ≤ x ∨ (xs % 2 = 1 ∧ x + 1 = xs) := by
  omega

/-- The right edge: halving an even XE takes in the pixel right of it. -/
theorem half_le_half_iff_stop {x xe : Nat} : x / 2 ≤ xe / 2 ↔ x ≤ xe ∨ (xe % 2 = 0 ∧ x = xe + 1) := by
  omega

/-- Settles O39: each packed column is two pixels, so each edge of the window may add one; the last column is below
HALF_W, so its two pixels are below WIDTH. -/
theorem windowPixelCoverage : Obligations.WindowPixelCoverage := by
  intro c xs ys xe ye w x hlegal hw
  obtain ⟨-, hcolStop, -⟩ := window_range hlegal hw
  obtain ⟨-, ⟨(hx : xs.toNat ≤ xe.toNat), -⟩, rfl⟩ := windowOf_eq_ok.1 hw
  refine ⟨by omega, ?_, fun ⟨_, hstop⟩ => ?_⟩
  · simp only [toNat_half]
    rw [half_le_half_iff_start, half_le_half_iff_stop (xe := xe.toNat)]
    omega
  · rw [Config.halfW] at hcolStop
    omega

end Sys2Proof.Machine

/-! PROOFS. The family 42_protocol_framing: no request reads the bus, the order of the line changes of every transaction
of every request, what the controller latches, and SEND_COMMAND and SEND_DATA. -/

namespace Sys2Proof.Machine

variable {s t : State} {i : Instr}

/-! ### The events a request appends -/

/-- The events a request appends are CONFIGURE_LINES's twelve, or transactions and settle waits, of which there are none
before the lines are configured. -/
theorem Effect.appended {es : List BusEvent} (h : Effect s i t) (hes : t.trace = s.trace ++ es) :
    (i = .configureLines ∧ es = configureEvents s.config)
      ∨ ∃ gs, es = segmentEvents gs ∧ (gs = [] ∨ s.lifecycle ≠ .uninitialized) := by
  by_cases hi : i = .configureLines
  · subst hi
    obtain ⟨-, htrace, -⟩ := h.configures
    exact .inl ⟨rfl, List.append_cancel_left (hes.symm.trans htrace)⟩
  · obtain ⟨gs, ⟨htrace, -⟩, hgs⟩ := h.appends hi
    exact .inr ⟨gs, List.append_cancel_left (hes.symm.trans htrace), hgs⟩

/-- No request drives RD to 0 (R150). -/
theorem Effect.rdLow_not_mem {es : List BusEvent} (h : Effect s i t) (hes : t.trace = s.trace ++ es) :
    BusEvent.set .rd .low ∉ es := by
  rcases h.appended hes with ⟨-, rfl⟩ | ⟨gs, rfl, -⟩
  · simp [configureEvents]
  · exact rdLow_not_mem_segments gs

/-! ### No request reads the bus (R150) -/

/-- The state with the events of `s` put after the trace `tr`, and after what that trace left of the lines, `l`. -/
def replay (l : Lines) (tr : List BusEvent) (s : State) : State :=
  { s with lines := l.applyAll s.trace, trace := tr ++ s.trace }

/-- The outcome with its next state changed. -/
def mapNext (f : State → State) : Host.Outcome State Fault Refusal → Host.Outcome State Fault Refusal
  | .next t => .next (f t)
  | .fault r => .fault r
  | .refused r => .refused r

theorem mapNext_eq_next {f : State → State} {k : Host.Outcome State Fault Refusal} (h : mapNext f k = .next t) :
    ∃ u, k = .next u ∧ t = f u := by
  cases k with
  | next u => exact ⟨u, rfl, (Host.Outcome.next.inj h).symm⟩
  | fault r => cases h
  | refused r => cases h

section

variable (l : Lines) (tr : List BusEvent) (s : State)

@[simp] theorem replay_config : (replay l tr s).config = s.config := rfl
@[simp] theorem replay_lifecycle : (replay l tr s).lifecycle = s.lifecycle := rfl
@[simp] theorem storeBuffer_replay (m : Memory) : storeBuffer m (replay l tr s) = replay l tr (storeBuffer m s) := rfl
@[simp] theorem latchWindow_replay (w : Window) : latchWindow w (replay l tr s) = replay l tr (latchWindow w s) := rfl
@[simp] theorem enter_replay (n : Lifecycle) : enter n (replay l tr s) = replay l tr (enter n s) := rfl
@[simp] theorem markOrientation_replay : markOrientation (replay l tr s) = replay l tr (markOrientation s) := rfl
@[simp] theorem windowData_replay : windowData (replay l tr s) = windowData s := rfl

@[simp] theorem emitAll_replay (es : List BusEvent) : emitAll es (replay l tr s) = replay l tr (emitAll es s) := by
  simp only [emitAll, replay, Lines.applyAll_append, List.append_assoc]

@[simp] theorem done_replay (d : ResponseData) : done d (replay l tr s) = mapNext (replay l tr) (done d s) := rfl
@[simp] theorem fail_replay (code : Status) : fail code (replay l tr s) = mapNext (replay l tr) (fail code s) := rfl

@[simp] theorem bufRead_replay (a : Nat) : bufRead a (replay l tr s) = bufRead a s := rfl

@[simp] theorem bufReadAll_replay (is : List Nat) : bufReadAll is (replay l tr s) = bufReadAll is s :=
  bufReadAll_congr (s := s) (t := replay l tr s) rfl rfl is

@[simp] theorem streamWindow_replay (w : Window) (is : List Nat) :
    streamWindow w is (replay l tr s) = mapNext (replay l tr) (streamWindow w is s) := by
  simp only [streamWindow, bufReadAll_replay]
  cases bufReadAll is s with
  | error f => rfl
  | ok bytes => simp

theorem execSetPixel_replay (x y level : Byte) :
    execSetPixel x y level (replay l tr s) = mapNext (replay l tr) (execSetPixel x y level s) := by
  unfold execSetPixel
  rw [apply_ite (mapNext (replay l tr))]
  refine if_congr Iff.rfl rfl ?_
  simp only [replay_config, bufRead_replay]
  cases hread : bufRead (pixelIndex s.config x y) s with
  | error f => rfl
  | ok b =>
    obtain ⟨hlt, -⟩ := bufRead_eq_ok hread
    simp only [bufWrite_of_lt hlt, bufWrite_of_lt (s := replay l tr s) hlt, storeBuffer_replay, done_replay]
    rfl

theorem execGetPixel_replay (x y : Byte) :
    execGetPixel x y (replay l tr s) = mapNext (replay l tr) (execGetPixel x y s) := by
  unfold execGetPixel
  rw [apply_ite (mapNext (replay l tr))]
  refine if_congr Iff.rfl rfl ?_
  simp only [replay_config, bufRead_replay]
  cases bufRead (pixelIndex s.config x y) s <;> rfl

theorem execReadByte_replay (idx : Index) :
    execReadByte idx (replay l tr s) = mapNext (replay l tr) (execReadByte idx s) := by
  unfold execReadByte
  rw [apply_ite (mapNext (replay l tr))]
  refine if_congr Iff.rfl rfl ?_
  simp only [bufRead_replay]
  cases bufRead idx.toNat s <;> rfl

/-- What a request does from replayed lines and trace is what it does without them, replayed: it reads neither. -/
theorem exec_replay (i : Instr) : exec i (replay l tr s) = mapNext (replay l tr) (exec i s) := by
  cases i with
  | setPixel x y level => exact execSetPixel_replay l tr s x y level
  | getPixel x y => exact execGetPixel_replay l tr s x y
  | clear => rfl
  | readByte idx => exact execReadByte_replay l tr s idx
  | computeWindow xs ys xe ye =>
    simp only [exec, execComputeWindow, replay_config, latchWindow_replay, windowData_replay, done_replay, fail_replay]
    cases windowOf s.config ⟨xs, ys, xe, ye⟩ <;> rfl
  | flushAll =>
    simp only [exec, execFlushAll, replay_lifecycle, replay_config, streamWindow_replay, fail_replay]
    cases s.lifecycle with
    | uninitialized => rfl
    | configuring | on => cases windowOf s.config (fullRegion s.config) <;> rfl
  | flushRegion xs ys xe ye =>
    simp only [exec, execFlushRegion, replay_lifecycle, replay_config, streamWindow_replay, fail_replay]
    cases s.lifecycle with
    | uninitialized => rfl
    | configuring | on => cases windowOf s.config ⟨xs, ys, xe, ye⟩ <;> rfl
  | sendCommand b =>
    simp only [exec, execSendCommand, replay_lifecycle, emitAll_replay, done_replay]
    cases s.lifecycle <;> rfl
  | sendData b =>
    simp only [exec, execSendData, replay_lifecycle, emitAll_replay, done_replay]
    cases s.lifecycle <;> rfl
  | configureLines =>
    simp only [exec, execConfigureLines, replay_lifecycle, replay_config, emitAll_replay, enter_replay, done_replay]
    cases s.lifecycle <;> rfl
  | powerOn =>
    simp only [exec, execPowerOn, replay_lifecycle, replay_config, emitAll_replay, enter_replay,
      markOrientation_replay, done_replay, fail_replay]
    cases s.lifecycle with
    | configuring => cases s.config.variantCommands <;> rfl
    | uninitialized | on => rfl
  | setContrast v =>
    simp only [exec, execSetContrast, replay_lifecycle, replay_config, emitAll_replay, done_replay]
    cases s.lifecycle <;> rfl

end

/-- The state on undriven lines, with no event behind it. -/
def offBus (s : State) : State := { s with lines := .undriven, trace := [] }

theorem replay_offBus (l : Lines) (tr : List BusEvent) (s : State) :
    replay l tr (offBus s) = { s with lines := l, trace := tr } := by
  simp only [replay, offBus, List.append_nil, Lines.applyAll_nil]

/-- Settles O21: the events are those the request appends to the empty trace, replayed on any lines and trace. -/
theorem blockNeverReadsTheBus : Obligations.BlockNeverReadsTheBus := by
  intro s t i h
  have hreplay : mapNext (replay s.lines s.trace) (exec i (offBus s)) = .next t := by
    rw [← exec_replay, replay_offBus, h]
  obtain ⟨u, hu, rfl⟩ := mapNext_eq_next hreplay
  refine ⟨u.trace, rfl, (exec_effect h).rdLow_not_mem rfl, fun l tr => ?_⟩
  rw [← replay_offBus, exec_replay, hu]
  rfl

/-! ### What events keep of a line -/

/-- RD stays at 1 through events that do not drive it to 0. -/
theorem rdHigh_applyAll {l : Lines} {es : List BusEvent} (h : l.rd.level = some .high)
    (hes : BusEvent.set .rd .low ∉ es) : (l.applyAll es).rd.level = some .high := by
  induction es generalizing l with
  | nil => exact h
  | cons e es ih =>
    obtain ⟨he, hes⟩ := not_or.1 (mt List.mem_cons.2 hes)
    refine ih ?_ hes
    cases e with
    | config line => cases line <;> exact h
    | set w v =>
      cases w with
      | rd =>
        cases v with
        | low => exact absurd rfl he
        | high => rfl
      | _ => exact h
    | setD b => exact h
    | settle => exact h

/-- D keeps its level through events that do not write it. -/
theorem dLevel_applyAll {l : Lines} {es : List BusEvent} (hes : ∀ b, BusEvent.setD b ∉ es) :
    (l.applyAll es).d.level = l.d.level := by
  induction es generalizing l with
  | nil => rfl
  | cons e es ih =>
    rw [Lines.applyAll_cons, ih fun b hb => hes b (List.mem_cons_of_mem _ hb)]
    cases e with
    | config line => cases line <;> rfl
    | set w v => cases w <;> rfl
    | setD b => exact absurd List.mem_cons_self (hes b)
    | settle => rfl

/-! ### Where a transaction starts (R145) -/

/-- CS, WR and RD are 1 (R145, R146). -/
structure StrobesHigh (l : Lines) : Prop where
  cs : l.cs.level = some .high
  wr : l.wr.level = some .high
  rd : l.rd.level = some .high

theorem LinesIdle.strobesHigh {c : Config} {l : Lines} (h : LinesIdle c l) : StrobesHigh l :=
  ⟨h.csHigh, h.wrHigh, h.rdHigh⟩

/-- Wherever CS is driven to 0 in the events, CS, WR and RD are 1 before it. -/
def SelectsFromIdle (l : Lines) (es : List BusEvent) : Prop :=
  ∀ before after, es = before ++ BusEvent.set .cs .low :: after → StrobesHigh (l.applyAll before)

theorem SelectsFromIdle.append {l : Lines} {es fs : List BusEvent} (hes : SelectsFromIdle l es)
    (hfs : SelectsFromIdle (l.applyAll es) fs) : SelectsFromIdle l (es ++ fs) := by
  intro before after h
  rcases List.append_eq_append_iff.1 h with ⟨rest, rfl, hrest⟩ | ⟨rest, hrest, htail⟩
  · rw [Lines.applyAll_append]
    exact hfs rest after hrest
  · cases rest with
    | nil =>
      rw [List.append_nil] at hrest
      subst hrest
      exact hfs [] after htail.symm
    | cons e rest =>
      obtain ⟨rfl, -⟩ := List.cons.inj htail
      exact hes before rest hrest

/-! ### The places of a transaction's edges (R141) -/

section

variable {dc : Level} {b : Byte} {before after : List BusEvent}

/-- CS falls second. -/
theorem frame_eq_append_csLow (h : frame dc b = before ++ BusEvent.set .cs .low :: after) :
    before = [.set .rd .high] ∧ after = (frame dc b).drop 2 := by
  simpa [frame, List.cons_eq_append_iff] using h

/-- WR falls fifth, after DC. -/
theorem frame_eq_append_wrLow (h : frame dc b = before ++ BusEvent.set .wr .low :: after) :
    before = [.set .rd .high, .set .cs .low, .set .wr .high, .set .dc dc]
      ∧ after = [.setD b, .set .wr .high, .set .cs .high] := by
  simpa [frame, List.cons_eq_append_iff] using h

/-- WR is driven to 1 before it falls and once after, when D is set. -/
theorem frame_eq_append_wrHigh (h : frame dc b = before ++ BusEvent.set .wr .high :: after) :
    before = [.set .rd .high, .set .cs .low]
      ∨ before = [.set .rd .high, .set .cs .low, .set .wr .high, .set .dc dc, .set .wr .low, .setD b] := by
  simp only [frame, List.cons_eq_append_iff, List.cons.injEq, BusEvent.set.injEq, reduceCtorEq, and_true, false_and,
    and_false, and_self, true_and, List.nil_eq, List.append_eq_nil_iff, exists_const, or_self, or_false,
    ↓existsAndEq, false_or] at h
  obtain ⟨rest, rfl, ⟨rfl, -⟩ | ⟨rfl, -⟩⟩ := h
  · exact .inl rfl
  · exact .inr rfl

end

/-! ### Every transaction of a request starts with idle strobes (R145, R146) -/

theorem StrobesHigh.selectsFromIdle_frame {l : Lines} (h : StrobesHigh l) (dc : Level) (b : Byte) :
    SelectsFromIdle l (frame dc b) := by
  intro before after heq
  obtain ⟨rfl, -⟩ := frame_eq_append_csLow heq
  exact ⟨h.cs, h.wr, rfl⟩

theorem LinesIdle.selectsFromIdle_frames {c : Config} {l : Lines} (h : LinesIdle c l) (dc : Level) (bs : List Byte) :
    SelectsFromIdle l (bs.flatMap (Machine.frame dc)) := by
  induction bs generalizing l with
  | nil => exact fun before after heq => absurd heq (by simp)
  | cons b bs ih => exact (h.strobesHigh.selectsFromIdle_frame dc b).append (ih (h.frame dc b))

theorem LinesIdle.selectsFromIdle_segment {c : Config} {l : Lines} (h : LinesIdle c l) (g : Segment) :
    SelectsFromIdle l g.events := by
  cases g with
  | frames dc bytes => exact h.selectsFromIdle_frames dc bytes
  | settle => exact fun before after heq => absurd heq (by simp [Segment.events, List.singleton_eq_append_iff])

/-- From idle lines every transaction of the segments starts with CS, WR and RD at 1. -/
theorem LinesIdle.selectsFromIdle_segments {c : Config} {l : Lines} (h : LinesIdle c l) (gs : List Segment) :
    SelectsFromIdle l (segmentEvents gs) := by
  induction gs generalizing l with
  | nil => exact fun before after heq => absurd heq (by simp [segmentEvents])
  | cons g gs ih => exact (h.selectsFromIdle_segment g).append (ih (h.segment g))

/-- Where a transaction stands among the events of a request, CS, WR and RD are 1 at its start: it is where its CS
falls, and RD is never 0. -/
theorem Effect.strobesHigh_at_frame {pre post : List BusEvent} {dc : Level} {b : Byte} (h : Effect s i t)
    (hs : s.BlockInv) (htrace : t.trace = s.trace ++ (pre ++ frame dc b ++ post)) :
    StrobesHigh (s.lines.applyAll pre) := by
  obtain ⟨tail, htail⟩ : ∃ tail, pre ++ frame dc b ++ post
      = (pre ++ [.set .rd .high]) ++ BusEvent.set .cs .low :: tail := by
    simp [frame]
  have hrd := h.rdLow_not_mem htrace
  rcases h.appended htrace with ⟨-, hconfigure⟩ | ⟨gs, hgs, rfl | hl⟩
  · have hselect : BusEvent.set .cs .low ∈ configureEvents s.config := by
      rw [← hconfigure, htail]
      simp
    simp [configureEvents] at hselect
  · rw [htail] at hgs
    simp [segmentEvents] at hgs
  · have hidle := hs.idle hl
    obtain ⟨hcs, hwr, -⟩ := hidle.selectsFromIdle_segments gs _ tail (hgs.symm.trans htail)
    rw [Lines.applyAll_append] at hcs hwr
    exact ⟨hcs, hwr, rdHigh_applyAll hidle.rdHigh fun hmem => hrd (by simp [hmem])⟩

/-! ### The order of the changes (R145) -/

/-- The changes of a transaction that starts with CS, WR and RD at 1: CS falls first and rises last, and DC and D
change only where they held another level. -/
theorem StrobesHigh.changesFrom_frame {l : Lines} (h : StrobesHigh l) (dc : Level) (b : Byte) :
    changesFrom l (frame dc b) = .set .cs .low ::
      ((if l.dc.level = some dc then [] else [.set .dc dc]) ++ .set .wr .low ::
        (if l.d.level = some b then [] else [.setD b]) ++ [.set .wr .high]) ++ [.set .cs .high] := by
  simp only [changesFrom, frame, isChange, Lines.wireLevel, Lines.apply, LineState.drive, h.cs, h.wr, h.rd]
  by_cases hdc : l.dc.level = some dc
  · by_cases hd : l.d.level = some b <;> simp [hdc, hd]
  · by_cases hd : l.d.level = some b <;> simp [hdc, hd]

/-- Settles O42: CS, WR and RD are 1 where the transaction starts, and the rest is of its eight events from there. -/
theorem transactionsKeepTheOrdering : Obligations.TransactionsKeepTheOrdering := by
  intro s t i pre post dc b hs h htrace l
  have hl : StrobesHigh l := (exec_effect h).strobesHigh_at_frame hs.toBlockInv htrace
  refine ⟨⟨hl.cs, hl.wr, hl.rd⟩, fun before after heq => ?_, ⟨_, hl.changesFrom_frame dc b, ?_⟩,
    fun before after heq hlow => ?_, ⟨rfl, rfl, rfl, rfl, rfl, rfl⟩, fun es hes => ?_⟩
  · obtain ⟨rfl, rfl⟩ := frame_eq_append_wrLow heq
    exact ⟨rfl, by simp⟩
  · split_ifs <;> simp [isChipSelect]
  · rcases frame_eq_append_wrHigh heq with rfl | rfl
    · exact absurd (hl.wr.symm.trans hlow) (by decide)
    · rfl
  · rw [Lines.applyAll_append, dLevel_applyAll hes]
    rfl

/-- Settles O43: the events of every other request are transactions and settle waits on idle lines. -/
theorem everyRequestObeysTheBusOrder : Obligations.EveryRequestObeysTheBusOrder := by
  intro s t i es hs h hi htrace
  rcases (exec_effect h).appended htrace with ⟨hconfigure, -⟩ | ⟨gs, rfl, rfl | hl⟩
  · exact absurd hconfigure hi
  · rfl
  · exact busInOrder_segments (hs.idle hl) gs

/-! ### What the controller latches (R147, R148) -/

theorem kindOf_eq (dc : Level) : kindOf dc = if dc = .low then .command else .data := by
  cases dc <;> rfl

/-- Settles O44: a transaction by `latchedFrom_frame`; the other events hold no rising edge of WR from 0. -/
theorem transactionLatchesItsByte : Obligations.TransactionLatchesItsByte := by
  refine ⟨fun c l dc b h => ⟨?_, h.frame dc b⟩, latchedFrom_configure, fun _ => rfl⟩
  rw [latchedFrom_frame h.wrHigh, kindOf_eq]

/-- The bytes a flush of a window latches: its commands, then the bytes of its rows and columns. -/
theorem latches_flushSegments (c : Config) (m : Memory) (w : Window) :
    (flushSegments c m w (windowIndices c w)).flatMap Segment.latches
      = (windowCommands c w).map (fun b => ⟨.command, some b⟩)
        ++ (upTo w.rowStart.toNat w.rowStop.toNat).flatMap fun row =>
          (upTo w.colStart.toNat w.colStop.toNat).map fun col => ⟨.data, some (m.read (col + row * c.halfW))⟩ := by
  simp [flushSegments, Segment.latches, windowIndices, kindOf, List.map_flatMap, Function.comp_def]

theorem upTo_eq_range' {a b : Nat} (h : a ≤ b) : upTo a b = List.range' a (b - a + 1) := by
  rw [upTo, Nat.sub_add_comm h]

/-- A FLUSH_REGION that ends with OK had a window and streamed it. -/
theorem exec_flushRegion_of_ok (hlegal : s.config.legal = true) {xs ys xe ye : Byte}
    (h : exec (.flushRegion xs ys xe ye) s = .next t) (hok : t.status = .ok) :
    s.lifecycle ≠ .uninitialized ∧ ∃ w, windowOf s.config ⟨xs, ys, xe, ye⟩ = .ok w
      ∧ t = respond .ok (windowData (latchWindow w s)) (s.stream w (windowIndices s.config w)) := by
  obtain ⟨hl, -⟩ := configured_of_next h
  refine ⟨hl, ?_⟩
  cases hw : windowOf s.config ⟨xs, ys, xe, ye⟩ with
  | error code =>
    obtain ⟨rfl, -⟩ := windowOf_eq_error.1 hw
    obtain rfl := Host.Outcome.next.inj ((exec_flushRegion_error hl hw).symm.trans h)
    cases hok
  | ok w => exact ⟨w, rfl, (Host.Outcome.next.inj ((exec_flushRegion_ok hlegal hl hw).symm.trans h)).symm⟩

/-- Settles O49: the flush appends the segments of its window, and the controller latches their bytes. -/
theorem flushRegionReachesTheController : Obligations.FlushRegionReachesTheController := by
  intro s t xs ys xe ye hs h hok
  obtain ⟨hl, w, hw, rfl⟩ := exec_flushRegion_of_ok hs.legal h hok
  obtain ⟨-, ⟨hx, hy⟩, rfl⟩ := windowOf_eq_ok.1 hw
  have hcols : (xs / 2).toNat ≤ (xe / 2).toNat := by
    simpa only [toNat_half] using Nat.div_le_div_right hx
  rw [respond_trace, State.stream, emitAll_trace, latchWindow_trace, hs.toBlockInv.latched_segments hl,
    latches_flushSegments, upTo_eq_range' hy, upTo_eq_range' hcols, toNat_half, toNat_half, List.append_assoc]
  rfl

/-- POWER_ON appends its two commands around the settle wait, and the commands of the variant's entry if it has one
(R183). -/
theorem Effect.powerOn_trace (h : Effect s .powerOn t) :
    t.trace = s.trace ++ segmentEvents [.frames .low [s.config.cmdPowerOn], .settle,
      .frames .low (s.config.cmdNormalDisplay :: s.config.variantCommands.getD [])] := by
  cases h with
  | rejected _ code hc hcode => exact absurd rfl (rejected_ne hc hcode).2
  | flushed _ r w is _ hi _ _ => simp at hi
  | sent _ dc bytes _ hi => simp at hi
  | poweredOn cmds _ hv => rw [hv]; rfl
  | poweredOnUnsupported _ hv => rw [hv]; rfl

/-- Settles O54: the controller latches the bytes of POWER_ON's transactions, all framed as commands. -/
theorem powerOnReachesTheController : Obligations.PowerOnReachesTheController := by
  intro s t hs h
  have heffect := exec_effect h
  obtain ⟨hlife, -, -⟩ := heffect.powers_on
  have hl : s.lifecycle ≠ .uninitialized := by rw [hlife]; decide
  rw [heffect.powerOn_trace, hs.toBlockInv.latched_segments hl]
  simp [Segment.latches, kindOf]

/-! ### SEND_COMMAND and SEND_DATA (R142, R143) -/

/-- Settles O40: refused by R187's table, and otherwise one transaction in command mode and a response. -/
theorem sendCommandFramesEightEvents : Obligations.SendCommandFramesEightEvents := by
  intro s b
  refine ⟨decode_encode (.sendCommand b), fun hl => exec_of_lifecycleRefusal (by rw [hl]; rfl), fun hl => ?_⟩
  exact ⟨_, exec_sendCommand hl b, rfl, ⟨rfl, rfl, rfl, rfl, rfl⟩, rfl, reports_respond _ _ _, rfl⟩

/-- Settles O41: refused by R187's table, and otherwise one transaction in data mode and a response. -/
theorem sendDataFramesEightEvents : Obligations.SendDataFramesEightEvents := by
  intro s b
  refine ⟨decode_encode (.sendData b), fun hl => exec_of_lifecycleRefusal (by rw [hl]; rfl), fun hl => ?_⟩
  exact ⟨_, exec_sendData hl b, rfl, ⟨rfl, rfl, rfl, rfl, rfl⟩, rfl, reports_respond _ _ _, rfl⟩

end Sys2Proof.Machine

/-! PROOFS. The family 43_transfer_engine: the order of a flush's stream, FLUSH_ALL as the flush of the full region, what
FLUSH_ALL and FLUSH_REGION append and leave unchanged, and how many transactions they frame. -/

namespace Sys2Proof.Machine

variable {s t : State}

/-! ### The order of the stream (R161, R167) -/

/-- Entry k of `m` rows of `n` columns, listed row by row, is in row `k / n` and column `k % n`. -/
theorem getElem?_rowMajor {α : Type} (f : Nat → Nat → α) (row col m n k : Nat) (hk : k < m * n) :
    ((List.range' row m).flatMap fun r => (List.range' col n).map (f r))[k]?
      = some (f (row + k / n) (col + k % n)) := by
  induction m generalizing row k with
  | zero => simp at hk
  | succ m ih =>
    rw [List.range'_succ, List.flatMap_cons]
    rcases Nat.lt_or_ge k n with hfirst | hrest
    · rw [List.getElem?_append_left (by simpa using hfirst), Nat.div_eq_of_lt hfirst, Nat.mod_eq_of_lt hfirst]
      simp [hfirst]
    · have hn : 0 < n := Nat.pos_of_ne_zero fun h => by simp [h] at hk
      have hk' : k - n < m * n := by rw [Nat.succ_mul] at hk; omega
      rw [List.getElem?_append_right (by simpa using hrest), List.length_map, List.length_range', ih _ _ hk',
        Nat.mod_eq_sub_mod hrest, Nat.div_eq_sub_div hn hrest, Nat.add_assoc, Nat.add_comm 1]

/-- Byte k of a window's stream (R167). -/
theorem getElem?_windowIndices (c : Config) {w : Window} (hcol : w.colStart.toNat ≤ w.colStop.toNat)
    (hrow : w.rowStart.toNat ≤ w.rowStop.toNat) {k : Nat}
    (hk : k < (w.rowStop.toNat - w.rowStart.toNat + 1) * (w.colStop.toNat - w.colStart.toNat + 1)) :
    (windowIndices c w)[k]?
      = some ((w.colStart.toNat + k % (w.colStop.toNat - w.colStart.toNat + 1))
        + (w.rowStart.toNat + k / (w.colStop.toNat - w.colStart.toNat + 1)) * c.halfW) := by
  rw [windowIndices, upTo_eq_range' hcol, upTo_eq_range' hrow]
  exact getElem?_rowMajor (fun row col => col + row * c.halfW) _ _ _ _ _ hk

theorem length_windowIndices_of_le (c : Config) {w : Window} (hcol : w.colStart.toNat ≤ w.colStop.toNat)
    (hrow : w.rowStart.toNat ≤ w.rowStop.toNat) :
    (windowIndices c w).length
      = (w.rowStop.toNat - w.rowStart.toNat + 1) * (w.colStop.toNat - w.colStart.toNat + 1) := by
  rw [length_windowIndices, Nat.sub_add_comm hrow, Nat.sub_add_comm hcol]

/-- Settles O50: a window's rows are all of its n columns, so byte k lies in row k / n and column k % n of it. -/
theorem streamOrderIsRowByRow : Obligations.StreamOrderIsRowByRow := by
  intro c r w k hw hlegal n m
  obtain ⟨hcol, -, hrow, -⟩ := window_range hlegal hw
  refine ⟨length_windowIndices_of_le c hcol hrow, fun hk => ⟨getElem?_windowIndices c hcol hrow hk, ?_, ?_⟩⟩
  · have : k / n < m := Nat.div_lt_of_lt_mul (Nat.mul_comm m n ▸ hk)
    omega
  · have : k % n < n := Nat.mod_lt _ (Nat.succ_pos _)
    omega

/-! ### The full region (R163) -/

theorem fullWindow_bounds {c : Config} (hlegal : c.legal = true) {w : Window}
    (hw : windowOf c (fullRegion c) = .ok w) :
    w.colStart.toNat = 0 ∧ w.colStop.toNat = c.halfW - 1 ∧ w.rowStart.toNat = 0 ∧ w.rowStop.toNat = c.height - 1 := by
  obtain ⟨-, hwidth, -, -, hheight, -⟩ := c.legal_iff.1 hlegal
  obtain ⟨w', hw', hcolStart, hcolStop, hrowStart, hrowStop⟩ :=
    fullRegionWindow c (.ofNat 8 (c.width - 1)) (.ofNat 8 (c.height - 1)) hlegal
      (by rw [BitVec.toNat_ofNat]; omega) (by rw [BitVec.toNat_ofNat]; omega)
  obtain rfl := Except.ok.inj (hw.symm.trans hw')
  exact ⟨congrArg BitVec.toNat hcolStart, hcolStop, congrArg BitVec.toNat hrowStart, hrowStop⟩

/-- The window of the full region streams the buffer in index order: byte k lies in row k / HALF_W and column
k % HALF_W of the buffer. -/
theorem windowIndices_fullWindow {c : Config} (hlegal : c.legal = true) {w : Window}
    (hw : windowOf c (fullRegion c) = .ok w) : windowIndices c w = allIndices c := by
  obtain ⟨hhalf, -⟩ := Config.halfW_bounds hlegal
  obtain ⟨-, -, -, hheight, -⟩ := c.legal_iff.1 hlegal
  obtain ⟨hcolStart, hcolStop, hrowStart, hrowStop⟩ := fullWindow_bounds hlegal hw
  have hcols : w.colStop.toNat - w.colStart.toNat + 1 = c.halfW := by omega
  have hrows : w.rowStop.toNat - w.rowStart.toNat + 1 = c.height := by omega
  obtain ⟨hcol, -, hrow, -⟩ := window_range hlegal hw
  have hlength : (windowIndices c w).length = c.bufLen := by
    rw [length_windowIndices_of_le c hcol hrow, hrows, hcols, Config.bufLen_eq hlegal]
  refine List.ext_getElem? fun k => ?_
  rcases Nat.lt_or_ge k c.bufLen with hk | hk
  · rw [getElem?_windowIndices c hcol hrow (by rwa [hrows, hcols, ← Config.bufLen_eq hlegal]), hcols, hcolStart,
      hrowStart, allIndices, List.getElem?_range hk]
    simp [Nat.mod_add_div']
  · rw [List.getElem?_eq_none (hlength.trans_le hk), List.getElem?_eq_none ((length_allIndices c).trans_le hk)]

/-- Settles O47: both flushes have the window of the full region, which streams the indices of the whole buffer. -/
theorem flushAllIsTheFullRegionFlush : Obligations.FlushAllIsTheFullRegionFlush := by
  intro s xe ye hlegal hxe hye
  have hw := windowOf_fullRegion hlegal
  by_cases hl : s.lifecycle = .uninitialized
  · rw [exec_of_lifecycleRefusal (i := .flushAll) (by rw [hl]; rfl),
      exec_of_lifecycleRefusal (i := .flushRegion 0 0 xe ye) (by rw [hl]; rfl)]
  · rw [exec_flushAll hl hw, exec_flushRegion_ok hlegal hl (fullRegion_eq hxe hye ▸ hw),
      windowIndices_fullWindow hlegal hw]

/-! ### What a flush does (R160, R161, R164) -/

/-- The events of a flush: its addressing commands, then the byte at each index as data. -/
theorem segmentEvents_flushSegments (c : Config) (m : Memory) (w : Window) (is : List Nat) :
    segmentEvents (flushSegments c m w is)
      = (windowCommands c w).flatMap (frame .low) ++ is.flatMap fun a => frame .high (m.read a) := by
  simp [flushSegments, segmentEvents, Segment.events, List.flatMap_map]

theorem stream_trace (w : Window) (is : List Nat) (s : State) :
    (s.stream w is).trace
      = s.trace ++ ((windowCommands s.config w).flatMap (frame .low)
        ++ is.flatMap fun a => frame .high (s.buf.read a)) := by
  rw [State.stream, emitAll_trace, latchWindow_trace, segmentEvents_flushSegments]

/-- A flush that completes changes nothing but the window registers, the lines, the trace, STATUS and the response. -/
theorem stream_frame {d : ResponseData} {w : Window} {is : List Nat} (h : t = respond .ok d (s.stream w is)) :
    t = { s with
      winColStart := t.winColStart, winColStop := t.winColStop, winRowStart := t.winRowStart
      winRowStop := t.winRowStop, lines := t.lines, trace := t.trace, status := .ok, response := t.response } := by
  subst h
  rw [State.stream]
  generalize segmentEvents _ = es
  rfl

/-- The indices of a region's window, with the columns halved. -/
theorem windowIndices_region (c : Config) {xs ys xe ye : Byte} (hx : xs.toNat ≤ xe.toNat)
    (hy : ys.toNat ≤ ye.toNat) :
    windowIndices c ⟨xs / 2, xe / 2, ys, ye⟩
      = (List.range' ys.toNat (ye.toNat - ys.toNat + 1)).flatMap fun row =>
        (List.range' (xs.toNat / 2) (xe.toNat / 2 - xs.toNat / 2 + 1)).map fun col => col + row * (c.width / 2) := by
  simp only [windowIndices, toNat_half, upTo_eq_range' hy, upTo_eq_range' (Nat.div_le_div_right hx), Config.halfW]

/-- Settles O45: an invalid region has no window and only responds, a valid one streams its window. -/
theorem flushRegionStreamsTheWindow : Obligations.FlushRegionStreamsTheWindow := by
  intro s xs ys xe ye hlegal valid
  refine ⟨decode_encode (.flushRegion xs ys xe ye), fun hl => exec_of_lifecycleRefusal (by rw [hl]; rfl),
    fun hl hinvalid => ?_, fun hl ⟨hrange, hx, hy⟩ => ?_⟩
  · have hbad : badRegion s.config xs ys xe ye := not_not.1 (mt not_badRegion_iff.1 hinvalid)
    exact ⟨_, exec_flushRegion_error hl (windowOf_eq_error.2 ⟨rfl, hbad⟩), reports_respond _ _ _, rfl⟩
  · have hw : windowOf s.config ⟨xs, ys, xe, ye⟩ = .ok ⟨xs / 2, xe / 2, ys, ye⟩ :=
      windowOf_eq_ok.2 ⟨hrange, ⟨hx, hy⟩, rfl⟩
    refine ⟨_, exec_flushRegion_ok hlegal hl hw, toNat_half xs, toNat_half xe, rfl, rfl, ?_,
      reports_respond _ _ _, stream_frame rfl⟩
    rw [respond_trace, stream_trace, windowIndices_region s.config hx hy]
    rfl

/-- Settles O46: the full region of a legal configuration has a window, and FLUSH_ALL streams every index. -/
theorem flushAllStreamsTheBuffer : Obligations.FlushAllStreamsTheBuffer := by
  intro s hlegal
  refine ⟨decode_of_encode_eq (i := .flushAll) rfl, fun hl => exec_of_lifecycleRefusal (by rw [hl]; rfl),
    fun hl => ?_⟩
  have hw := windowOf_fullRegion hlegal
  obtain ⟨-, hcolStop, -, hrowStop⟩ := fullWindow_bounds hlegal hw
  exact ⟨_, exec_flushAll hl hw, rfl, hcolStop, rfl, hrowStop, stream_trace _ _ s, reports_respond _ _ _,
    stream_frame rfl⟩

/-! ### The transaction counts (R162) -/

@[simp] theorem length_windowCommands (c : Config) (w : Window) : (windowCommands c w).length = 6 := rfl

/-- A flush frames its six addressing commands and one byte for each index. -/
theorem transactionCount_flush {l : Lines} {c : Config} (h : LinesIdle c l) (m : Memory) (w : Window)
    (is : List Nat) : transactionCount l (segmentEvents (flushSegments c m w is)) = 6 + is.length := by
  rw [transactionCount, latchedFrom_segments h]
  simp [flushSegments, Segment.latches]

/-- Each transaction of a flush is eight events. -/
theorem length_flush (c : Config) (m : Memory) (w : Window) (is : List Nat) :
    (segmentEvents (flushSegments c m w is)).length = 8 * (6 + is.length) := by
  simp only [flushSegments, segmentEvents, Segment.events, List.flatMap_cons, List.flatMap_nil, List.append_nil,
    List.length_append, length_frames, List.length_map, length_windowCommands, Nat.mul_add]

/-- The events of a flush that streams `n` indices are 6 + n transactions. -/
theorem State.BlockInv.stream_counts (h : s.BlockInv) (hl : s.lifecycle ≠ .uninitialized) {w : Window}
    {is : List Nat} {es : List BusEvent} (hes : (s.stream w is).trace = s.trace ++ es) :
    transactionCount s.lines es = 6 + is.length ∧ es.length = 8 * (6 + is.length) := by
  obtain rfl : segmentEvents (flushSegments s.config s.buf w is) = es := List.append_cancel_left hes
  exact ⟨transactionCount_flush (h.idle hl) _ _ _, length_flush _ _ _ _⟩

/-- Settles O48: a flush that has a window frames its commands and its bytes; a FLUSH_REGION that has none appends
nothing. -/
theorem flushTransactionCounts : Obligations.FlushTransactionCounts := by
  intro s t es hs htrace
  refine ⟨fun h => ?_, fun xs ys xe ye h => ?_⟩
  · obtain ⟨hl, -⟩ := configured_of_next h
    obtain rfl := Host.Outcome.next.inj ((exec_flushAll hl (windowOf_fullRegion hs.legal)).symm.trans h)
    simpa only [length_allIndices] using hs.toBlockInv.stream_counts hl htrace
  · obtain ⟨hl, -⟩ := configured_of_next h
    cases hw : windowOf s.config ⟨xs, ys, xe, ye⟩ with
    | error code =>
      obtain ⟨rfl, -⟩ := windowOf_eq_error.1 hw
      obtain rfl := Host.Outcome.next.inj ((exec_flushRegion_error hl hw).symm.trans h)
      obtain rfl : es = [] := List.append_right_eq_self.1 htrace.symm
      exact ⟨rfl, rfl⟩
    | ok w =>
      obtain ⟨hcol, -, hrow, -⟩ := window_range hs.legal hw
      obtain ⟨-, -, rfl⟩ := windowOf_eq_ok.1 hw
      obtain rfl := Host.Outcome.next.inj ((exec_flushRegion_ok hs.legal hl hw).symm.trans h)
      obtain ⟨hcount, hlength⟩ := hs.toBlockInv.stream_counts hl htrace
      rw [length_windowIndices_of_le s.config hcol hrow] at hcount hlength
      simp only [toNat_half] at hcount hlength
      exact ⟨hcount, by rw [hcount, hlength]⟩

end Sys2Proof.Machine

/-! PROOFS. The family 44_lifecycle: R187's table of legal requests, CONFIGURE_LINES, POWER_ON and its variant lookup,
and SET_CONTRAST. -/

namespace Sys2Proof

/-! ### The variant lookup (R9, R184) -/

theorem lookupEntry_cons (key k : Byte) (cmds : List Byte) (table : List (Byte × List Byte)) :
    lookupEntry key ((k, cmds) :: table) = if k = key then some cmds else lookupEntry key table := rfl

/-- A key has no commands exactly when no entry has it. -/
theorem lookupEntry_eq_none_iff {key : Byte} {table : List (Byte × List Byte)} :
    lookupEntry key table = none ↔ ∀ e ∈ table, e.1 ≠ key := by
  induction table with
  | nil => simp [lookupEntry]
  | cons e table ih =>
    rw [lookupEntry_cons, List.forall_mem_cons, ← ih]
    by_cases h : e.1 = key <;> simp [h]

/-- Entries with other keys before an entry do not count. -/
theorem lookupEntry_append_cons {key : Byte} {before : List (Byte × List Byte)} (h : ∀ e ∈ before, e.1 ≠ key)
    (cmds : List Byte) (after : List (Byte × List Byte)) :
    lookupEntry key (before ++ (key, cmds) :: after) = some cmds := by
  induction before with
  | nil => exact if_pos rfl
  | cons e before ih =>
    obtain ⟨hhead, htail⟩ := List.forall_mem_cons.1 h
    rw [List.cons_append, lookupEntry_cons, if_neg hhead, ih htail]

namespace Machine

variable {s : State}

/-! ### The table of legal requests (R187) -/

/-- Settles O16: a row that gives a reason refuses, and any other row completes on a legal configuration. -/
theorem requestsCompleteAsTheLifecycleTableSays : Obligations.RequestsCompleteAsTheLifecycleTableSays :=
  fun _ _ hs => ⟨fun _ => exec_of_lifecycleRefusal, exec_completes hs.legal⟩

/-! ### CONFIGURE_LINES (R180 to R182) -/

/-- Nothing has moved on the bus of a block whose lines are not configured (R187, R233). -/
theorem State.BlockInv.bus_untouched (h : s.BlockInv) (hl : s.lifecycle = .uninitialized) :
    s.trace = [] ∧ s.lines = .undriven := by
  have htrace := h.quiet hl
  refine ⟨htrace, ?_⟩
  rw [h.linesReplay, htrace]
  rfl

theorem lifecycleRefusal_configureLines {l : Lifecycle} (hl : l ≠ .uninitialized) :
    lifecycleRefusal .configureLines l = some .alreadyConfigured := by
  cases l with
  | uninitialized => exact absurd rfl hl
  | configuring => rfl
  | on => rfl

/-- Settles O52: the bus is untouched before, so the lines and the bytes latched are those of the twelve events. -/
theorem configureLinesSetsIdleLevels : Obligations.ConfigureLinesSetsIdleLevels := by
  intro s hs
  refine ⟨decode_of_encode_eq (i := .configureLines) rfl,
    fun hl => exec_of_lifecycleRefusal (lifecycleRefusal_configureLines hl), fun hl => ?_⟩
  obtain ⟨htrace, hlines⟩ := hs.toBlockInv.bus_untouched hl
  refine ⟨_, exec_configureLines hl, rfl, ?_, ?_, reports_respond _ _ _, rfl⟩
  · rw [respond_lines, enter_lines, emitAll_lines, hlines]
    rfl
  · rw [respond_trace, enter_trace, emitAll_trace, htrace, List.nil_append]
    exact latchedFrom_configure s.config

/-! ### POWER_ON (R183, R184) -/

/-- The events of POWER_ON written out: the part every variant sends, then the entry's commands (R183). -/
theorem powerOnEvents_append (c : Config) (cmds : List Byte) :
    powerOnEvents c ++ frameCommands cmds
      = frame .low c.cmdPowerOn ++ [.settle] ++ frame .low c.cmdNormalDisplay ++ cmds.flatMap (frame .low) := rfl

/-- Settles O53: the lookup by induction on the table, the sequence by the two ways POWER_ON ends, for each of which the
clauses hold whatever events `es` it emits. -/
theorem powerOnRunsTheSequence : Obligations.PowerOnRunsTheSequence := by
  refine ⟨fun c => ⟨lookupEntry_eq_none_iff, fun before after cmds htable hbefore => ?_⟩, fun s =>
    ⟨decode_of_encode_eq (i := .powerOn) rfl, fun hl => exec_of_lifecycleRefusal (by rw [hl]; rfl),
      fun hl => exec_of_lifecycleRefusal (by rw [hl]; rfl), fun hl => ?_⟩⟩
  · rw [Config.variantCommands, htable]
    exact lookupEntry_append_cons hbefore cmds after
  · cases hv : s.config.variantCommands with
    | none =>
      refine ⟨_, exec_powerOn_none hl hv, ?_⟩
      rw [Option.getD_none, List.flatMap_nil, List.append_nil, ← powerOnEvents]
      generalize powerOnEvents s.config = es
      exact ⟨rfl, rfl, rfl, rfl, reports_respond _ _ _, rfl⟩
    | some cmds =>
      refine ⟨_, exec_powerOn_some hl hv, ?_⟩
      rw [Option.getD_some, ← powerOnEvents_append]
      generalize powerOnEvents s.config ++ frameCommands cmds = es
      exact ⟨rfl, rfl, rfl, rfl, reports_respond _ _ _, rfl⟩

/-! ### SET_CONTRAST (R186) -/

/-- Settles O55: refused by R187's table, and otherwise two transactions in command mode and a response. -/
theorem setContrastSendsCommandAndValue : Obligations.SetContrastSendsCommandAndValue := by
  intro s v
  refine ⟨decode_encode (.setContrast v), fun hl => exec_of_lifecycleRefusal (by rw [hl]; rfl), fun hl => ?_⟩
  exact ⟨_, exec_setContrast hl v, rfl, rfl, reports_respond _ _ _, rfl⟩

end Machine

end Sys2Proof

/-! PROOFS. The family 60_exceptions: each status code exactly when its cause holds, and what a failed request leaves
unchanged. -/

namespace Sys2Proof.Machine

variable {s t : State} {i : Instr} {c : Config} {code code' : Status}

/-! ### The causes of the status codes (R200) -/

/-- The one failure a request can end with, OK for a request that cannot fail. -/
def failureCode : Instr → Status
  | .setPixel .. | .getPixel .. | .readByte .. => .outOfBounds
  | .computeWindow .. | .flushRegion .. => .wrongPosition
  | .powerOn => .unsupportedVariant
  | .clear | .flushAll | .sendCommand .. | .sendData .. | .configureLines | .setContrast .. => .ok

theorem eq_failureCode_of_causeOf (h : causeOf c i code) (hfail : code ≠ .ok) : code = failureCode i := by
  cases code with
  | ok => exact absurd rfl hfail
  | outOfBounds =>
    cases i with
    | setPixel | getPixel | readByte => rfl
    | _ => cases h
  | wrongPosition =>
    cases i with
    | computeWindow | flushRegion => rfl
    | _ => cases h
  | unsupportedVariant =>
    obtain ⟨rfl, -⟩ := h
    rfl

theorem causeOf_ok_iff : causeOf c i .ok ↔ ∀ code ≠ .ok, ¬ causeOf c i code := by
  constructor
  · rintro ⟨hbounds, hregion, hvariant⟩ code hfail
    cases code with
    | ok => exact absurd rfl hfail
    | outOfBounds => exact hbounds
    | wrongPosition => exact hregion
    | unsupportedVariant => exact hvariant
  · intro h
    exact ⟨h .outOfBounds nofun, h .wrongPosition nofun, h .unsupportedVariant nofun⟩

/-- A request has the cause of OK when it has not that of the one failure it can end with. -/
theorem causeOf_ok_of_failureCode (h : failureCode i ≠ .ok → ¬ causeOf c i (failureCode i)) : causeOf c i .ok :=
  causeOf_ok_iff.2 fun code hfail hcause => by
    obtain rfl := eq_failureCode_of_causeOf hcause hfail
    exact h hfail hcause

/-- The causes exclude each other: that of OK excludes every failure's, and a request has one failure. -/
theorem causeOf_unique (h : causeOf c i code) (h' : causeOf c i code') : code = code' := by
  by_cases hok : code = .ok
  · subst hok
    exact (not_not.1 fun hfail' => causeOf_ok_iff.1 h code' hfail' h').symm
  · by_cases hok' : code' = .ok
    · subst hok'
      exact absurd h (causeOf_ok_iff.1 h' code hok)
    · rw [eq_failureCode_of_causeOf h hok, eq_failureCode_of_causeOf h' hok']

/-- A region that has a window is not a bad one. -/
theorem not_badRegion_of_windowOf_eq_ok {r : Region} {w : Window} (h : windowOf c r = .ok w) :
    ¬ badRegion c r.xs r.ys r.xe r.ye := by
  obtain ⟨hrange, horder, -⟩ := windowOf_eq_ok.1 h
  exact not_badRegion_iff.2 ⟨hrange, horder⟩

/-- Every way a request ends leaves STATUS at a code whose cause holds. -/
theorem Effect.causeOf_status (h : Effect s i t) (hlegal : s.config.legal = true) : causeOf s.config i t.status := by
  cases h with
  | rejected _ code hcause _ =>
    rcases hcause with hcause | ⟨-, hillegal⟩
    · exact hcause
    · exact absurd hlegal hillegal
  | wrote x y level hx hy _ =>
    exact causeOf_ok_of_failureCode fun _ => not_or.2 ⟨Nat.not_le.2 hx, Nat.not_le.2 hy⟩
  | readPixel x y hx hy _ =>
    exact causeOf_ok_of_failureCode fun _ => not_or.2 ⟨Nat.not_le.2 hx, Nat.not_le.2 hy⟩
  | readByte idx hlt => exact causeOf_ok_of_failureCode fun _ => Nat.not_le.2 hlt
  | latchedWindow xs ys xe ye w hw => exact causeOf_ok_of_failureCode fun _ => not_badRegion_of_windowOf_eq_ok hw
  | flushed _ r w is _ hi hw _ =>
    rcases hi with ⟨rfl, -⟩ | ⟨rfl, -⟩
    · exact causeOf_ok_of_failureCode (absurd rfl)
    · exact causeOf_ok_of_failureCode fun _ => not_badRegion_of_windowOf_eq_ok hw
  | sent _ dc bytes _ hi =>
    rcases hi with ⟨_, rfl, -⟩ | ⟨_, rfl, -⟩ | ⟨_, rfl, -⟩ <;> exact causeOf_ok_of_failureCode (absurd rfl)
  | cleared => exact causeOf_ok_of_failureCode (absurd rfl)
  | configured _ => exact causeOf_ok_of_failureCode (absurd rfl)
  | poweredOn cmds _ hv =>
    refine causeOf_ok_of_failureCode fun _ ⟨_, hnone⟩ => ?_
    rw [hv] at hnone
    cases hnone
  | poweredOnUnsupported _ hv => exact ⟨rfl, hv⟩

/-- Settles O17: the code a request ends with has its cause, and no other code has. -/
theorem statusCodesFollowTheirCauses : Obligations.StatusCodesFollowTheirCauses := by
  refine ⟨⟨rfl, rfl, rfl, rfl⟩, fun s t i code hlegal h => ?_⟩
  have hcause : causeOf s.config i t.status := (exec_effect h).causeOf_status hlegal
  exact ⟨fun hstatus => hstatus ▸ hcause, causeOf_unique hcause⟩

/-! ### The state after a failed request (R209) -/

/-- Of all effects, only a rejection ends with the failure of an argument check, and a rejection only responds. -/
theorem Effect.eq_restamp_of_argumentFailure (h : Effect s i t)
    (hstatus : t.status = .outOfBounds ∨ t.status = .wrongPosition) : t = restamp t.status t.response s := by
  cases h with
  | rejected => rfl
  | _ => simp at hstatus

/-- UNSUPPORTED_VARIANT is how POWER_ON ends after the part of its sequence every variant sends (R183). -/
theorem Effect.eq_of_unsupportedVariant (h : Effect s i t) (hstatus : t.status = .unsupportedVariant) :
    i = .powerOn ∧ t = respond .unsupportedVariant .zero
      (markOrientation (enter .on (emitAll (powerOnEvents s.config) s))) := by
  cases h with
  | rejected _ code _ hcode =>
    obtain rfl : code = .unsupportedVariant := hstatus
    simp at hcode
  | poweredOnUnsupported _ _ => exact ⟨rfl, rfl⟩
  | _ => simp at hstatus

/-- Settles O18: an argument failure only restamps STATUS and the response, and POWER_ON of a variant with no entry
appends the events the lines follow. -/
theorem failuresArePrecise : Obligations.FailuresArePrecise := by
  intro s t i h
  refine ⟨(exec_effect h).eq_restamp_of_argumentFailure, fun hstatus => ?_⟩
  obtain ⟨hi, rfl⟩ := (exec_effect h).eq_of_unsupportedVariant hstatus
  refine ⟨hi, rfl, ?_⟩
  rw [respond_trace, markOrientation_trace, enter_trace, emitAll_trace, List.drop_left]
  rfl

end Sys2Proof.Machine

/-! PROOFS. The family 70_reset_and_hazards: construction and the reset state, the wait for the host, and the bound on
the events a request appends. -/

namespace Sys2Proof.Machine

variable {s t : State} {i : Instr}

/-! ### The events of one request (R241) -/

theorem length_segmentEvents_nil : (segmentEvents []).length = 0 := rfl

theorem length_segmentEvents_cons (g : Segment) (gs : List Segment) :
    (segmentEvents (g :: gs)).length = g.events.length + (segmentEvents gs).length := by
  rw [segmentEvents_cons, List.length_append]

theorem length_configureEvents (c : Config) : (configureEvents c).length = 12 := rfl

/-- A window streams at most the whole buffer: its rows and packed columns are among the buffer's. -/
theorem length_windowIndices_le_bufLen {c : Config} (hlegal : c.legal = true) {r : Region} {w : Window}
    (hw : windowOf c r = .ok w) : (windowIndices c w).length ≤ c.bufLen := by
  obtain ⟨-, hcols, -, hrows⟩ := window_range hlegal hw
  rw [length_windowIndices, Config.bufLen_eq hlegal]
  exact Nat.mul_le_mul (by omega) (by omega)

/-- Either flush streams at most BUF_LEN bytes, FLUSH_ALL exactly that many (R162). -/
theorem flush_trace_length_le (hlegal : s.config.legal = true) {r : Region} {w : Window} {is : List Nat}
    (hw : windowOf s.config r = .ok w) (his : is = allIndices s.config ∨ is = windowIndices s.config w) :
    (s.stream w is).trace.length ≤ s.trace.length + 8 * (6 + s.config.bufLen) := by
  have hlen : is.length ≤ s.config.bufLen := by
    rcases his with rfl | rfl
    · exact (length_allIndices s.config).le
    · exact length_windowIndices_le_bufLen hlegal hw
  rw [State.stream, emitAll_trace, latchWindow_trace, List.length_append, length_flush]
  omega

/-- Of the requests other than POWER_ON, a flush appends the most: the others append at most CONFIGURE_LINES's twelve
events or SET_CONTRAST's two transactions. -/
theorem Effect.trace_length_le (h : Effect s i t) (hlegal : s.config.legal = true) (hpower : i ≠ .powerOn) :
    t.trace.length ≤ s.trace.length + 8 * (6 + s.config.bufLen) := by
  cases h with
  | flushed _ r w is _ hi hw _ =>
    exact flush_trace_length_le hlegal hw (hi.imp (fun ⟨_, _, his⟩ => his) fun ⟨_, his⟩ => his)
  | sent _ dc bytes _ hi =>
    have hlen : bytes.length ≤ 2 := by
      rcases hi with ⟨_, -, -, rfl⟩ | ⟨_, -, -, rfl⟩ | ⟨_, -, -, rfl⟩ <;> simp
    rw [respond_trace, emitAll_trace, List.length_append, length_segmentEvents_cons, length_segmentEvents_nil,
      Segment.events, length_frames]
    omega
  | configured _ =>
    rw [respond_trace, enter_trace, emitAll_trace, List.length_append, length_configureEvents]
    omega
  | poweredOn => exact absurd rfl hpower
  | poweredOnUnsupported => exact absurd rfl hpower
  | _ => exact Nat.le_add_right _ _

/-- POWER_ON appends two transactions around the settle wait, and one for each command of the variant's entry (R183). -/
theorem Effect.powerOn_trace_length (h : Effect s .powerOn t) :
    t.trace.length = s.trace.length + (17 + 8 * (s.config.variantCommands.getD []).length) := by
  rw [h.powerOn_trace, List.length_append]
  simp only [length_segmentEvents_cons, length_segmentEvents_nil, Segment.events, length_frames, List.length_cons,
    List.length_nil]
  omega

/-- Settles O28: POWER_ON's count is exact, and every other request stays within the count of FLUSH_ALL. -/
theorem requestsAppendBoundedlyManyEvents : Obligations.RequestsAppendBoundedlyManyEvents := by
  intro s t i hs h
  have heffect := exec_effect h
  split_ifs with hpower
  · subst hpower
    exact heffect.powerOn_trace_length.le
  · exact heffect.trace_length_le hs.legal hpower

/-! ### The wait for the host (R231) -/

theorem takeRequest_nil (h : s.requests = []) : takeRequest s = none := by
  simp only [takeRequest, h]

/-- Settles O7: the step finds no word to take. -/
theorem blockWaitsForTheHost : Obligations.BlockWaitsForTheHost := by
  intro s hmark hreq
  simp only [step, hmark, takeRequest_nil hreq]

/-! ### The reset state (R230) -/

/-- No request leads back to Uninitialized: CONFIGURE_LINES enters Configuring, POWER_ON enters On, and every other
request keeps LIFECYCLE (R22, R188). -/
theorem Effect.lifecycle_ne_uninitialized (h : Effect s i t) (hl : s.lifecycle ≠ .uninitialized) :
    t.lifecycle ≠ .uninitialized := by
  by_cases hconf : i = .configureLines
  · subst hconf
    rw [h.enters_configuring]
    decide
  · by_cases hpower : i = .powerOn
    · subst hpower
      obtain ⟨-, hon, -⟩ := h.powers_on
      rw [hon]
      decide
    · rwa [h.lifecycle_eq hconf hpower]

/-- No step leads back to Uninitialized: only a new construction does (R230). -/
theorem step_lifecycle_ne_uninitialized (h : step s = .next t) (hl : s.lifecycle ≠ .uninitialized) :
    t.lifecycle ≠ .uninitialized := by
  rcases step_cases h with ⟨-, rfl⟩ | ⟨w, rest, i, -, -, -, heffect⟩
  · exact hl
  · exact heffect.lifecycle_ne_uninitialized hl

/-- Settles O9: the block constructed is `State.ofConfig c`, whose fields are the table's values. -/
theorem resetLeavesTheTable : Obligations.ResetLeavesTheTable := by
  intro c hlegal
  exact ⟨State.ofConfig c, construct_of_legal hlegal, rfl, fun _ => rfl, rfl, rfl, rfl, rfl, rfl, rfl, rfl,
    ⟨rfl, rfl, rfl, rfl, rfl, rfl⟩, ⟨rfl, rfl, rfl, rfl, rfl, rfl⟩, rfl, rfl,
    fun _ _ => step_lifecycle_ne_uninitialized⟩

/-- The reset state of a legal configuration: its windows and buffer are in range as the sizes are positive, and its
lines and trace are untouched. -/
theorem blockInv_ofConfig {c : Config} (h : c.legal = true) : (State.ofConfig c).BlockInv where
  legal := h
  bufCanonical := Memory.wf_nil
  bufInRange := nofun
  colOrdered := le_rfl
  colInRange := by
    obtain ⟨hhalf, -⟩ := Config.halfW_bounds h
    change 0 < c.halfW
    omega
  rowOrdered := le_rfl
  rowInRange := by
    obtain ⟨-, -, -, hheight, -⟩ := c.legal_iff.1 h
    change 0 < c.height
    omega
  linesReplay := rfl
  quiet := fun _ => rfl
  idle := fun hl => absurd rfl hl
  rdNeverLow := nofun
  latchOnlyIdle := nofun
  latchedDriven := nofun
  orientBeforeOn := fun _ => rfl
  orientInOn := nofun

/-- The reset state reports no failure and holds no response yet. -/
theorem inv_ofConfig {c : Config} (h : c.legal = true) : (State.ofConfig c).Inv :=
  { blockInv_ofConfig h with
    statusOrient := nofun
    responseCurrent := fun hresponse => absurd rfl hresponse }

/-- Settles O12: `State.reset` is the reset state of the 128 by 128 device, which is legal. -/
theorem resetMeetsTheInvariant : Obligations.ResetMeetsTheInvariant :=
  ⟨fun _ => inv_ofConfig, inv_ofConfig (Config.device.legal_iff.2 (by decide))⟩

/-! ### Construction (R232) -/

theorem construct_of_illegal {c : Config} (h : ¬ c.legal = true) : construct c = .refused .illegalConfiguration :=
  if_neg h

/-- Settles O10: the conditions of R6, R7 and R13 are what `Config.legal` checks. -/
theorem illegalConfigurationBuildsNoBlock : Obligations.IllegalConfigurationBuildsNoBlock := by
  intro c
  have hlegal : c.legal = true ↔ (16 ≤ c.width ∧ c.width ≤ 128 ∧ c.width % 2 = 0)
      ∧ (16 ≤ c.height ∧ c.height ≤ 128) ∧ c.transport = .parallel := by
    simp only [c.legal_iff, and_assoc]
  rw [← hlegal]
  exact ⟨fun h => ⟨_, construct_of_legal h⟩, construct_of_illegal⟩

end Sys2Proof.Machine
